-- ==== Sys2Proof/Word.lean ====
section
/-! DEFINITION. The word types of the part: bytes of a frame and the 32-bit carrier key. -/

namespace Sys2Proof

/-- A byte of a client-port lane (R171). -/
abbrev Byte := BitVec 8

/-- A carrier key: three digits, consignor, lot and serial. Every 32-bit number is a key (R92). -/
structure Key where
  consignor : BitVec 8
  lot       : BitVec 12
  serial    : BitVec 12
  deriving DecidableEq, Repr

end Sys2Proof
end

