-- ==== Sys2Proof/Config.lean ====
section
/-! DEFINITION. What the part fixes (sizes and greatest values of its tables and counts) and the free values that the
manual leaves open. A free value is opaque: it has no body that a proof could look into. -/

namespace Sys2Proof

/-- A meter, banked exposure or mark is a count of grains up to 2^40 - 1 (R3). -/
def Config.maxGrains : Nat := 1099511627775
/-- The greatest wall minute, dry-minute counter and hold epoch (R1, R4, R114). -/
def Config.maxMinute : Nat := 4294967295
/-- The owed count stops here (R2). -/
def Config.maxOwed : Nat := 255
/-- The last value of the arm sequence counter (R39). -/
def Config.maxArmSeq : Nat := 281474976710655
/-- Bag b uses tally 65,536 + b (R25). -/
def Config.bagTallyBase : Nat := 65536
def Config.numSlots : Nat := 65536
def Config.numBags : Nat := 4096
def Config.numBlocks : Nat := 1024
def Config.numCheckouts : Nat := 2048
def Config.numContexts : Nat := 16
def Config.numPorts : Nat := 4
def Config.numZones : Nat := 32
def Config.numClasses : Nat := 8
def Config.numLists : Nat := 256
def Config.missFileSize : Nat := 8
def Config.writeQueueSize : Nat := 8
def Config.tallyQueueSize : Nat := 32
def Config.answerQueueSize : Nat := 16
def Config.noticeQueueSize : Nat := 32
def Config.outstandingLimit : Nat := 16
def Config.faultListSize : Nat := 16
/-- The longest body of a frame (R171). -/
def Config.maxBody : Nat := 248
/-- At most this many zones are of kind OVEN (R9). -/
def Config.maxOvens : Nat := 8
/-- A TIME_SET may not move a running clock by more than this many minutes (R196). -/
def Config.maxJump : Nat := 60
/-- How many urgent steps are run before a step is taken; more than one act can leave (log 1). -/
def Config.urgentFuel : Nat := 4096

/-- The check word of a carrier record, computed "from the slot number and from every field of the record" (R129).
The manual does not give the function. UNVERIFIED, log 8; safe. -/
opaque Config.checkWord : Nat → List Nat → Nat

/-- Whether the n-th write abandoned at a start, a reset or a power loss landed: its target holds "the whole of that
write or the whole of the one before" (R134). Log 9; safe. -/
opaque Config.writeLands : Nat → Bool

/-- How far, of steps 1 to 6, a CLEARING had come at the n-th interruption (R209). Log 10; safe. -/
opaque Config.clearingSteps : Nat → Nat

/-- The minute booked at the n-th place where the manual names a wall minute and neither a wall minute nor a
last-advance minute exists (R34). Log 11; safe. -/
opaque Config.unstatedMinute : Nat → Nat

/-- The number that 4 bytes carry for an exposure, in grains, whose whole minutes exceed 4,294,967,295: R28 allows it and R172
states no result. DESIGN CHOICE (that the answer is given all the same), log 64; safe. -/
opaque Config.unstatedExposure : Nat → Nat

end Sys2Proof
end

