-- ==== Sys2Proof/Syntax.lean ====
section
/-! DEFINITION. The commands: one constructor of Instr for each row of spec/opcode_table.json. The table gives its rows no
operands; the operands here name the unit that takes the step where there are several alike, and carry what comes from
outside (DESIGN CHOICE, log 3; safe). The body fields of the 36 requests (R172) are the type Request. -/

namespace Sys2Proof

/-- The target of a HOLD or UNHOLD; the level decides its form (R112, R172). -/
inductive HoldTarget where
  | consignor (c : Nat)
  | lot (c : Nat) (l : Nat)
  | bag (b : Nat)
  | carrier (k : Key)
  deriving DecidableEq, Repr

/-- The six fields of a class entry, as CLASS_SET carries them (R5, R189). -/
structure ClassEntry where
  budget      : Nat := 0
  warnMargin  : Nat := 0
  creditRatio : Nat := 0
  creditCap   : Nat := 0
  minBake     : Nat := 1
  bakeLimit   : Nat := 3
  deriving DecidableEq, Repr

/-- The body of a well-formed request (R172), with its fields as sent: whether a value lies in its stated range is
checked by the rule that owns the request. -/
inductive Request where
  | enroll (key : Key) (cls : Nat) (exposure : Option Nat) (bakes : Option Nat)
  | lookup (key : Key)
  | verify (key : Key) (station : Nat) (need : Nat)
  | openKeys (zone : Nat) (keys : List Key)
  | move (key : Key) (zone : Nat) (station : Option Nat)
  | seal (key : Key)
  | retire (key : Key) (reason : Nat) (station : Option Nat)
  | relabel (old new : Key) (station : Option Nat)
  | checkout (key : Key) (station : Nat) (watch : Nat)
  | release (key : Key) (station : Nat)
  | moveGroup (bag : Nat) (zone : Nat)
  | listBag (bag : Nat)
  | listDue (zone cls skip count : Nat)
  | listCheckouts (port station : Option Nat) (skip count : Nat)
  | hold (target : HoldTarget) (reason : Nat)
  | unhold (target : HoldTarget) (reason : Nat)
  | climate (zone : Nat) (temperature : Int) (humidity : Nat)
  | trip (zone : Nat)
  | clearTrip (zone : Nat)
  | bakeStart (zone minutes : Nat)
  | bakeStop (zone : Nat)
  | status
  | classSet (cls : Nat) (entry : ClassEntry)
  | bandSet (band humidity : Nat) (temperature : Int)
  | weightSet (band cls weight : Nat)
  | zoneSet (zone : Nat) (kind capacity fallback staleLimit lineMode : Option Nat)
  | portSet (port enable caps : Nat)
  | consignorSet (consignor ports : Nat)
  | routeSet (entries : List (Nat × Option Nat))
  | exemptSet (range enabled consignor lot mask answer : Nat)
  | timeSet (minute : Nat)
  | forceRetire (position slot : Nat)
  | faultClear
  | releaseAll (port station : Option Nat)
  | restart
  | format
  deriving DecidableEq, Repr

/-- The steps of the part (spec/opcode_table.json). `ctx` is a request context, `port` a client port, `zone` a zone,
`list` a due list, `entry` a miss file entry; `bytes` are the bytes the inbound lane delivers with the step. -/
inductive Instr where
  | powerOnReset
  | loadConfig
  | loadZones
  | scanDirectory
  | scanTallies
  | clearing
  | gapChargeVisible
  | restartBegins
  | formatBegins
  | minuteTick
  | bakeComplete (zone : Nat)
  | advanceVisible
  | zoneRecordWriteDone
  | conditionLineChange (zone : Nat) (asserted : Bool)
  | bakeWalkStep (zone : Nat)
  | bakeWalkCompletion
  | serveMark
  | create
  | arm
  | tallyMove
  | tallySeal
  | join
  | split
  | leave
  | free
  | read
  | listDueCommand
  | insertionWalkStep (list : Nat)
  | listDueWalkStep (list : Nat)
  | tallyWriteComplete
  | tallyCommandIssued
  | requestTaken
  | missWaitProbe
  | walkReadComplete (entry : Nat)
  | updateReadComplete
  | holdReadComplete
  | patternFlushStep
  | rangeCheckReadComplete
  | queueWriteComplete
  | heldWriteQueued
  | releaseAllWalkStep
  | releaseAllRecordRead
  | answerQueued (port : Nat)
  | turnComplete (port : Nat)
  | loseSync (port : Nat) (bytes : List Byte)
  | candidateRejected (port : Nat) (bytes : List Byte)
  | wrongKindFrame (port : Nat) (bytes : List Byte)
  | enroll (ctx : Nat)
  | lookup (ctx : Nat)
  | verify (ctx : Nat)
  | openOne (ctx : Nat)
  | multiKeyOpen (ctx : Nat)
  | move (ctx : Nat)
  | seal (ctx : Nat)
  | retire (ctx : Nat)
  | relabel (ctx : Nat)
  | checkout (ctx : Nat)
  | release (ctx : Nat)
  | moveGroup (ctx : Nat)
  | listBag (ctx : Nat)
  | listDue (ctx : Nat)
  | listCheckouts (ctx : Nat)
  | holdCarrier (ctx : Nat)
  | holdBag (ctx : Nat)
  | holdLot (ctx : Nat)
  | holdConsignor (ctx : Nat)
  | unholdCarrier (ctx : Nat)
  | unholdBag (ctx : Nat)
  | unholdLot (ctx : Nat)
  | unholdConsignor (ctx : Nat)
  | climate (ctx : Nat)
  | trip (ctx : Nat)
  | clearTrip (ctx : Nat)
  | bakeStart (ctx : Nat)
  | bakeStop (ctx : Nat)
  | status (ctx : Nat)
  | classSet (ctx : Nat)
  | bandSet (ctx : Nat)
  | weightSet (ctx : Nat)
  | zoneSet (ctx : Nat)
  | portSet (ctx : Nat)
  | consignorSet (ctx : Nat)
  | routeSet (ctx : Nat)
  | exemptSet (ctx : Nat)
  | timeSet (ctx : Nat)
  | forceRetire (ctx : Nat)
  | faultClear (ctx : Nat)
  | releaseAll (ctx : Nat)
  | restart (ctx : Nat)
  | format (ctx : Nat)
  | requestArrival (port : Nat) (bytes : List Byte)
  | resetLineApplied
  | powerLoss
  deriving DecidableEq, Repr

end Sys2Proof
end

