-- ==== Sys2Proof/Decode.lean ====
section
/-! DEFINITION. Decoding table words. No row of spec/opcode_table.json gives bits, so no word spells a command. -/

namespace Sys2Proof

/-- The command a word of the table spells: none, since no row gives bits (log 35; safe). -/
def decodeTableWord (_nbits _w : Nat) : Option Instr := none

end Sys2Proof
end

