-- ==== Sys2Proof/Machine/State.lean ====
section
/-! DEFINITION. The state of the part as plain data, block by block, and its value at reset. Tables that are mostly
unwritten are lists of (index, value) pairs, indices strictly rising, nothing listed that equals what an unlisted index
reads as (log 33). Free lists are runs of consecutive numbers in the order they stand (log 33). -/

namespace Sys2Proof.Machine

/-- A sparse table: (index, value), indices strictly rising. -/
abbrev Table (α : Type) := List (Nat × α)

/-- A FIFO of numbers as runs (first, length): what stands at the head of the first run leaves first. -/
abbrev FreeList := List (Nat × Nat)

/-! ### Names with a fixed set of values -/

/-- The answer statuses in the order of the table of R157. The result codes of tally commands are among them (R43). -/
inductive Status where
  | ok | notFound | exists_ | badField | notPermitted | portDisabled | notReady | readOnly | timeJump | keyExempt
  | recordFault | heldElsewhere | notHeld | onHold | expired | exhausted | wrongState | wrongZoneKind | zoneFull
  | zoneTripped | zoneOccupied | ovenBusy | noBakeTimer | bakeFinishing | classMismatch | classInUse | rangeInUse
  | noSlot | noTable | noBag | noCheckoutSpace | aliasLimit | faultsPending
  deriving DecidableEq, Repr

/-- Notice kinds in the order of R172. -/
inductive NoticeKind where
  | warn | expired | released | bakeDone | bakeAborted | zoneTrip | zoneStale | recordFault | modeChange | linkFault
  deriving DecidableEq, Repr

inductive ZoneKind where
  | floor | dry | oven
  deriving DecidableEq, Repr

inductive LineMode where
  | off | level | edge
  deriving DecidableEq, Repr

/-- Bake state of a zone with the fields present in each (R77). -/
inductive Bake where
  | idle
  | running (timer minutes : Nat)
  | completing (timer minutes : Nat)
  deriving DecidableEq, Repr

inductive TripCause where
  | lineLevel | lineEdge | request | modeChange
  deriving DecidableEq, Repr

inductive BakeAbortCause where
  | stop | trip | start
  deriving DecidableEq, Repr

inductive ReleaseCause where
  | release | releaseAll | retired | start
  deriving DecidableEq, Repr

inductive LinkCause where
  | sync | length | check | kind
  deriving DecidableEq, Repr

inductive ModeCause where
  | noSignature | rebuilt | startDone | unlistedFaults | faultListFull | faultClear
  deriving DecidableEq, Repr

inductive HoldLevel where
  | consignor | lot | bag | carrier
  deriving DecidableEq, Repr

/-- The phases of a rebuild (R200). -/
inductive Phase where
  | clearing | loadConfig | loadZones | scanDirectory | scanTallies | chargeGap
  deriving DecidableEq, Repr

/-- Device modes (R200). -/
inductive Mode where
  | unformatted
  | rebuilding (phase : Phase)
  | awaitTime
  | running
  | readOnly
  deriving DecidableEq, Repr

/-- The three starts (R200). -/
inductive StartKind where
  | powerOn | restart | format
  deriving DecidableEq, Repr

/-! ### Settings (configuration area and working settings) -/

/-- The limits of bands 0 to 6 (R6). -/
structure BandLimits where
  humidity    : Nat := 1000
  temperature : Int := 1250
  deriving DecidableEq, Repr

/-- The settings of a zone that the configuration area holds (R9, R188). -/
structure ZoneSettings where
  kind       : ZoneKind := .floor
  capacity   : Nat := 0
  fallback   : Nat := 7
  staleLimit : Nat := 0
  lineMode   : LineMode := .off
  deriving DecidableEq, Repr

/-- Capabilities of a port (R178). -/
structure Caps where
  station   : Bool := true
  climate   : Bool := true
  quality   : Bool := true
  supervise : Bool := false
  deriving DecidableEq, Repr

structure PortSettings where
  enabled : Bool := true
  caps    : Caps := {}
  deriving DecidableEq, Repr

/-- One exempt range (R106); `barred` is its answer BARRED, clear is EXEMPT. -/
structure ExemptRange where
  enabled   : Bool := false
  consignor : BitVec 8 := 0
  lot       : BitVec 12 := 0
  mask      : BitVec 20 := 0
  barred    : Bool := false
  deriving DecidableEq, Repr

/-- The settings of the configuration area (R188), all but the format signature. `routing` has one destination for each
of the eight routed kinds in the order of R183; `perms` lists the consignors whose permitted ports are not 1, 2 and 3. -/
structure Settings where
  classes : List ClassEntry := List.replicate 8 {}
  bands   : List BandLimits := List.replicate 7 {}
  weights : List (List Nat) := List.replicate 8 (List.replicate 8 16)
  zones   : List ZoneSettings := List.replicate 32 {}
  ports   : List PortSettings := { caps := { supervise := true } } :: List.replicate 3 {}
  perms   : Table (List Nat) := []
  routing : List (Option Nat) := List.replicate 8 (some 0)
  exempt  : List ExemptRange := List.replicate 4 {}
  deriving DecidableEq, Repr

/-! ### Zone unit -/

/-- A zone of the zone table (R9, R192). -/
structure Zone where
  kind           : ZoneKind := .floor
  capacity       : Nat := 0
  fallback       : Nat := 7
  staleLimit     : Nat := 0
  pendCapacity   : Nat := 0
  pendFallback   : Nat := 7
  pendStaleLimit : Nat := 0
  presentBand    : Nat := 0
  lastReading    : Option Nat := none
  stale          : Bool := false
  lineMode       : LineMode := .off
  lineLevel      : Bool := false
  tripLatch      : Bool := false
  meters         : List Nat := List.replicate 8 0
  metersComputed : List Nat := List.replicate 8 0
  dry            : Nat := 0
  dryComputed    : Nat := 0
  bake           : Bake := .idle
  deriving DecidableEq, Repr

/-- A bake timer in use (R76). -/
structure BakeTimer where
  zone      : Nat
  remaining : Nat
  deriving DecidableEq, Repr

/-- What the meter area holds of one zone (R23); `remaining` are the remaining minutes of a RUNNING bake. -/
structure ZoneRecord where
  meters    : List Nat := List.replicate 8 0
  dry       : Nat := 0
  bake      : Bake := .idle
  remaining : Nat := 0
  tripLatch : Bool := false
  deriving DecidableEq, Repr

/-- The meter area (R23). -/
structure MeterArea where
  zones : List ZoneRecord := List.replicate 32 {}
  last  : Option Nat := none
  deriving DecidableEq, Repr

/-- A meter-area write waiting for the port: a whole advance (of a tick or of the gap charge) or one zone's record (R23).
The contents of a zone record are those of the moment it is made, but for a write that was waiting when zone work began:
its contents are `fixed` there, so that no change made during the work reaches the area before the advance (log 31). -/
inductive ZoneWrite where
  | advance (area : MeterArea) (gap : Bool)
  | zone (z : Nat) (fixed : Option ZoneRecord)
  deriving DecidableEq, Repr

/-- The advance in flight (R2, R19, R21): the minute of its tick, whether it is the gap charge, and whether its write
has been issued (it is, once every bake that reached 0 in its step 3 has become COMPLETING). -/
structure Advance where
  minute : Nat
  gap    : Bool
  issued : Bool
  deriving DecidableEq, Repr

/-- A bake walk order (R80). -/
structure WalkOrder where
  zone    : Nat
  minutes : Nat
  deriving DecidableEq, Repr

/-- The tally unit's completion report of a bake walk, with the counts of R90. -/
structure WalkReport where
  zone       : Nat
  reset      : Nat
  exhausted  : Nat
  ineligible : Nat
  deriving DecidableEq, Repr

structure ZoneUnit where
  wallMinute   : Option Nat := none
  timeBase     : Nat := 0
  owed         : Nat := 0
  lastAdvance  : Option Nat := none
  classes      : List ClassEntry := List.replicate 8 {}
  bands        : List BandLimits := List.replicate 7 {}
  pendBands    : List BandLimits := List.replicate 7 {}
  weights      : List (List Nat) := List.replicate 8 (List.replicate 8 16)
  pendWeights  : List (List Nat) := List.replicate 8 (List.replicate 8 16)
  zones        : List Zone := List.replicate 32 {}
  timers       : List (Option BakeTimer) := List.replicate 4 none
  linesTaken   : Bool := false
  advance      : Option Advance := none
  orders       : List WalkOrder := []
  writes       : List ZoneWrite := []
  reports      : List WalkReport := []
  deriving DecidableEq, Repr

/-! ### Tally unit -/

/-- The owner of a tally (R26): a primary key or a bag number. -/
inductive Owner where
  | carrier (k : Key)
  | bag (b : Nat)
  deriving DecidableEq, Repr

/-- What a tally holds while SEALED or RESIDENT (R26). The expired flag is set when `expiredAt` is present. -/
structure Account where
  banked    : Nat := 0
  warned    : Bool := false
  exhausted : Bool := false
  expiredAt : Option Nat := none
  bakeCount : Nat := 0
  deriving DecidableEq, Repr

/-- What a tally holds while listed (R26, R31). -/
structure Marks where
  due      : Nat
  warn     : Nat
  seq      : Nat
  prevLink : Option Nat
  nextLink : Option Nat
  deriving DecidableEq, Repr

/-- A RESIDENT tally. `members` is the member count of a bag tally. -/
structure Resident where
  owner     : Owner
  cls       : Nat
  acct      : Account
  zone      : Nat
  entryMark : Nat
  entryDry  : Option Nat := none
  members   : Option Nat := none
  marks     : Option Marks := none
  deriving DecidableEq, Repr

/-- A tally: its state with the fields present in it (R25, R26). -/
inductive Tally where
  | free
  | sealed (owner : Owner) (cls : Nat) (acct : Account)
  | resident (r : Resident)
  | following (owner : Owner) (cls : Nat)
  deriving DecidableEq, Repr

/-- The tally commands (R47 to R56). Tallies are named by number. -/
inductive TallyOp where
  | create (n : Nat) (key : Key) (cls exposure bakes : Nat)
  | arm (n zone : Nat)
  | move (n zone : Nat)
  | seal (n : Nat)
  | join (bag : Nat) (members : List Nat) (zone : Nat)
  | split (bag member : Nat) (zone : Option Nat)
  | leave (member bag : Nat)
  | free (n : Nat)
  | read (n : Nat)
  | listDue (zone cls skip count : Nat)
  deriving DecidableEq, Repr

/-- A command in the tally command queue, held from issue to completion (R43). `finished`: its acts are done and only
its tally writes are outstanding; `credit`: the dry credit it gave, in grains. -/
structure TallyCmd where
  id       : Nat
  ctx      : Nat
  op       : TallyOp
  taken    : Bool := false
  finished : Bool := false
  credit   : Option Nat := none
  deriving DecidableEq, Repr

/-- One collected entry of a LIST_DUE walk (R56). -/
structure DueEntry where
  owner     : Owner
  members   : Option Nat
  remaining : Option Nat
  warned    : Bool
  expired   : Bool
  exhausted : Bool
  expiredAt : Option Nat
  bakeCount : Nat
  deriving DecidableEq, Repr

/-- What a LIST_DUE command completes with (R56). -/
structure DuePage where
  count         : Nat := 0
  beforeExpiry  : Nat := 0
  beforeWarn    : Nat := 0
  entries       : List DueEntry := []
  deriving DecidableEq, Repr

/-- A walk that holds a list (R36, R44, R56). `pos` is the tally an insertion walk looks at next, none past the head;
`rest` are the tallies a LIST_DUE walk has still to visit. -/
inductive ListWalk where
  | insertion (cmd n meter due warn : Nat) (pos : Option Nat)
  | listDue (cmd skip want : Nat) (rest : List Nat) (page : DuePage)
  deriving DecidableEq, Repr

/-- A due list (R32). `order` is the list from head to tail; head, tail and count are views of it. A cursor of none
stands at end. -/
structure DueList where
  order        : List Nat := []
  expiryCursor : Option Nat := none
  warnCursor   : Option Nat := none
  busy         : Bool := false
  walk         : Option ListWalk := none
  deriving DecidableEq, Repr

/-- A tally-area write waiting for the port; `cmd` is the command it belongs to (R58). -/
structure TallyWrite where
  n     : Nat
  tally : Tally
  cmd   : Option Nat
  deriving DecidableEq, Repr

/-- A bake walk (R46, R85). `visit` is none before the list of class `cls` has been begun. -/
structure BakeWalk where
  zone       : Nat
  minutes    : Nat
  cls        : Nat := 0
  visit      : Option (List Nat) := none
  spent      : List Nat := []
  renewed    : List Nat := []
  reset      : Nat := 0
  exhausted  : Nat := 0
  ineligible : Nat := 0
  deriving DecidableEq, Repr

/-- The two sources of the tally unit's work (R45). -/
inductive WorkSource where
  | commands | marks
  deriving DecidableEq, Repr

structure TallyUnit where
  table      : Table Tally := []
  lists      : Table DueList := []
  occupancy  : List Nat := List.replicate 32 0
  useCounts  : List Nat := List.replicate 8 0
  armSeq     : Nat := 0
  queue      : List TallyCmd := []
  nextCmd    : Nat := 0
  marks      : List Nat := []
  lastList   : Nat := 255
  lastSource : WorkSource := .commands
  writes     : List TallyWrite := []
  bakeWalks  : List BakeWalk := []
  orphans    : List Nat := []
  deriving DecidableEq, Repr

/-! ### Records, directory and record path -/

/-- A carrier record (R145). `link` none is OWN; `hold` is the reason of a set carrier hold. -/
structure CarrierRecord where
  primary  : Key
  aliases  : List Key := []
  link     : Option Nat := none
  hold     : Option Nat := none
  checkout : Option Nat := none
  watch    : List Nat := []
  enrolled : Nat := 0
  deriving DecidableEq, Repr

/-- A record as the record area holds it, with its check word (R129). -/
structure StoredRecord where
  record : CarrierRecord
  check  : Nat
  deriving DecidableEq, Repr

/-- A branch entry (R94). -/
structure BranchEntry where
  leaf : Option Nat := none
  hold : Option Nat := none
  live : Nat := 0
  deriving DecidableEq, Repr

/-- A leaf entry (R95). -/
inductive LeafEntry where
  | empty
  | primary (slot : Nat)
  | aliasOf (slot : Nat)
  deriving DecidableEq, Repr

/-- What a table block holds: a branch table or a leaf table; unlisted entries are in their created form. -/
inductive Block where
  | branch (entries : Table BranchEntry)
  | leaf (entries : Table LeafEntry)
  deriving DecidableEq, Repr

/-- The root area's copy of a root entry (R93). -/
structure RootCopy where
  branch : Option Nat := none
  hold   : Option Nat := none
  deriving DecidableEq, Repr

/-- A root entry (R93). -/
structure RootEntry where
  branch : Option Nat := none
  hold   : Option Nat := none
  ports  : List Nat := [1, 2, 3]
  live   : Nat := 0
  deriving DecidableEq, Repr

/-- A bag record (R60). Members are in join order. -/
inductive BagRecord where
  | free
  | live (members : List (Nat × Key)) (hold : Option Nat) (created : Nat)
  | closing (hold : Option Nat) (created : Nat)
  deriving DecidableEq, Repr

/-- One record of the configuration area, as a configuration write carries it (R188). -/
inductive SettingWrite where
  | cls (n : Nat) (entry : ClassEntry)
  | band (n : Nat) (limits : BandLimits)
  | weight (band cls w : Nat)
  | zone (z : Nat) (settings : ZoneSettings)
  | port (n : Nat) (settings : PortSettings)
  | consignor (c : Nat) (ports : List Nat)
  | routing (table : List (Option Nat))
  | exempt (n : Nat) (range : ExemptRange)
  deriving DecidableEq, Repr

/-- A write of the write stream with its target (R124, R188). -/
inductive WriteBody where
  | record (slot : Nat) (stored : StoredRecord)
  | bag (b : Nat) (record : BagRecord)
  | branch (block lot : Nat) (entry : BranchEntry)
  | leaf (block serial : Nat) (entry : LeafEntry)
  | block (n : Nat) (contents : Block)
  | root (c : Nat) (copy : RootCopy)
  | setting (w : SettingWrite)
  deriving DecidableEq, Repr

/-- A write with the context that made it, if one did. -/
structure QWrite where
  ctx  : Option Nat
  body : WriteBody
  deriving DecidableEq, Repr

/-- Who reads through the record path (R126, R141, R168). -/
inductive ReadClient where
  | walk (entry : Nat)
  | update
  | hold
  | range
  | releaseAll
  deriving DecidableEq, Repr

inductive ReadTarget where
  | branch (block lot : Nat)
  | leaf (block serial : Nat)
  | record (slot : Nat)
  deriving DecidableEq, Repr

/-- A read of the record path. A read abandoned after it was granted is not live: its value is discarded (R128). -/
structure Read where
  client : ReadClient
  target : ReadTarget
  live   : Bool := true
  deriving DecidableEq, Repr

/-- What a read returns. A record that was never written has no contents; `checked` says that its check word holds, or
that the copy was forwarded from the write stream and is not checked (R126, R129). -/
inductive ReadValue where
  | branch (e : BranchEntry)
  | leaf (e : LeafEntry)
  | record (r : Option CarrierRecord) (checked : Bool)
  deriving DecidableEq, Repr

/-- A read answered from the write stream and not yet returned to its client (R126). -/
structure Returned where
  read  : Read
  value : ReadValue
  deriving DecidableEq, Repr

/-- The access the record-memory port is making (R128). -/
inductive Access where
  | read (r : Read)
  | write
  | tally
  | advance (area : MeterArea) (gap : Bool)
  | zone (z : Nat) (record : ZoneRecord)
  deriving DecidableEq, Repr

inductive Requester where
  | path | tally | zone
  deriving DecidableEq, Repr

/-- The two kinds of access the record path offers by turns (R128). -/
inductive PathOffer where
  | read | write
  deriving DecidableEq, Repr

/-- A valid cache entry (R116); an invalid one is not listed. The pinned flag is that of the record's checkout index
(R120). -/
structure CacheEntry where
  slot      : Nat
  record    : CarrierRecord
  conHold   : Option Nat
  lotHold   : Option Nat
  pinned    : Bool
  fillEpoch : Nat
  deriving DecidableEq, Repr

inductive WalkStage where
  | root | branch | leaf | slot | record | holds | fill
  deriving DecidableEq, Repr

/-- The form of a leaf entry that names a slot (R95): that of the lookup key's, which the answer of LOOKUP tells (R147). -/
inductive KeyForm where
  | primary | aliased
  deriving DecidableEq, Repr

/-- A miss file entry in use (R121), with the values its walk has read; `form` is the form of the leaf entry that named the
slot. -/
structure Walk where
  key     : Key
  stage   : WalkStage
  slot    : Option Nat
  epoch   : Nat
  parked  : List Nat
  conHold : Option Nat := none
  lotHold : Option Nat := none
  record  : Option CarrierRecord := none
  form    : KeyForm := .primary
  deriving DecidableEq, Repr

/-- A pattern flush in flight (R133) and the context whose hold request began it. -/
structure Flush where
  consignor : BitVec 8
  lot       : Option (BitVec 12)
  epoch     : Nat
  nextSet   : Nat
  ctx       : Nat
  deriving DecidableEq, Repr

/-- The record path (06). The cache is indexed by set × 4 + way. `missWait` are the contexts in MISS_WAIT, oldest first
(R121); `owedProbes` are the probes that the end of a walk has still to make in its act (R123, step 3). -/
structure RecordPath where
  cache       : Table CacheEntry := []
  counter     : Nat := 0
  missFile    : Table Walk := []
  missWait    : List Nat := []
  owedProbes  : List (Nat × Key) := []
  queue       : List QWrite := []
  held        : List QWrite := []
  waiting     : List Read := []
  returned    : List Returned := []
  inFlight    : Option Access := none
  lastGranted : Requester := .zone
  lastOffered : PathOffer := .write
  flush       : Option Flush := none
  deriving DecidableEq, Repr

/-! ### Request engine -/

/-- A field of an answer or notice body: its width in bytes and its value (R172). -/
structure Field where
  width : Nat
  value : Nat
  deriving DecidableEq, Repr

/-- A body as a sequence of fields. -/
abbrev Body := List Field

/-- An answer (R171, R172): request code, tag and body. `starts` marks the OK answer of a RESTART or FORMAT, whose
queuing begins the start (R208, R209). -/
structure Answer where
  code   : Nat
  tag    : Nat
  body   : Body
  starts : Option StartKind := none
  deriving DecidableEq, Repr

/-- How a key of a context stands (R135, R138): `chained` before the gate opens; `byTurn` is the new key of a RELABEL,
which the directory turn resolves (R139). `ready` orders contexts by when they became READY on an entry (R119), and `form` is the
form of the key's leaf entry (R147). -/
inductive Resolution where
  | chained
  | missWait
  | fetching
  | exempt (barred : Bool) (range : Nat)
  | entry (index slot ready : Nat) (form : KeyForm)
  | notFound
  | recordFault
  | byTurn
  deriving DecidableEq, Repr

structure CtxKey where
  key : Key
  res : Resolution
  deriving DecidableEq, Repr

/-- The stages of R138; PROBING, MISS_WAIT, FETCHING and READY are told apart by the keys (`Context.stageName`). -/
inductive Stage where
  | chained | resolving | performed | awaitingTally | awaitingWrite | answered
  deriving DecidableEq, Repr

/-- The stages by the names of R138. -/
inductive StageName where
  | chained | probing | missWait | fetching | ready | performed | awaitingTally | awaitingWrite | answered
  deriving DecidableEq, Repr

/-- A checkout table entry in use (R159). -/
structure Checkout where
  slot    : Nat
  primary : Key
  port    : Nat
  station : Nat
  since   : Nat
  deriving DecidableEq, Repr

/-- The fresh contents of a tally that a command returns (R43): all that the tally holds, its exposure and its remaining
minutes, none for unlimited. -/
structure FreshTally where
  n         : Nat
  tally     : Tally
  exposure  : Nat
  remaining : Option Nat
  deriving DecidableEq, Repr

/-- What a tally command completes with (R43, R42, R56): its result code, the fresh contents of the tallies it names, the
dry credit it gave, and the page of a LIST_DUE. -/
structure CmdResult where
  status : Status
  fresh  : List FreshTally
  credit : Option Nat
  page   : DuePage
  deriving DecidableEq, Repr

/-- A tally command that a context has issued, with its result once it has completed (R135, R142). -/
structure IssuedCmd where
  id     : Nat
  op     : TallyOp
  result : Option CmdResult := none
  deriving DecidableEq, Repr

/-- The answer a context will give once its commands have completed and its writes are placed (R143). -/
structure Reply where
  status : Status
  body   : Body := []
  deriving DecidableEq, Repr

/-- A request context in use (R135). `holdRead` and `holderRead` are the reads of performance; `head` is the part of
the answer known before the last tally command completes; `bagTaken` is the bag number a multi-key OPEN has taken;
`left` are the members a MOVE_GROUP leaves behind; `commands` are the
commands issued, of which `outstanding` have not completed; `recheck` says that a RANGE_IN_USE check has ended over its new
key while that was unresolved (R108, log 42). -/
structure Context where
  port        : Nat
  tag         : Nat
  arrival     : Nat
  request     : Request
  keys        : List CtxKey := []
  stage       : Stage := .chained
  slots       : List Nat := []
  working     : Table CarrierRecord := []
  toIssue     : List TallyOp := []
  commands    : List IssuedCmd := []
  outstanding : Nat := 0
  recheck     : Bool := false
  performSeq  : Nat := 0
  holdRead    : Option (HoldLevel × Nat) := none
  holderRead  : Option Checkout := none
  head        : Body := []
  left        : List Key := []
  bagTaken    : Option Nat := none
  reply       : Option Reply := none
  deriving DecidableEq, Repr

/-- Slot states (R100). -/
inductive SlotState where
  | free | live | retiring | faulted | withdrawn
  deriving DecidableEq, Repr

/-- An entry of the fault list (R130). -/
structure FaultEntry where
  slot   : Nat
  key    : Key
  minute : Option Nat
  deriving DecidableEq, Repr

/-- Who asked for the directory turn (R141). -/
inductive UpdateOwner where
  | request (ctx : Nat)
  | withdrawn (key : Key) (slot : Nat)
  deriving DecidableEq, Repr

/-- An update of the directory turn: the reads it has still to make, the first of them in flight once begun. -/
structure Update where
  owner : UpdateOwner
  reads : List ReadTarget := []
  begun : Bool := false
  deriving DecidableEq, Repr

/-- The RANGE_IN_USE check (R108) and the branch entry it is reading. -/
structure RangeCheck where
  ctx       : Nat
  range     : Nat
  proposed  : ExemptRange
  begun     : Bool := false
  consignor : Nat := 0
  lot       : Nat := 0
  deriving DecidableEq, Repr

/-- A RELEASE_ALL that holds the checkout table (R167, R168). `awaits` are the places in the order of performance of the
contexts that were still to change the table when it was performed. -/
structure ReleaseAll where
  ctx      : Nat
  port     : Option Nat
  station  : Option Nat
  nextEntry : Nat := 0
  released : Nat := 0
  skipped  : Nat := 0
  reading  : Bool := false
  awaits   : List Nat := []
  deriving DecidableEq, Repr

structure Engine where
  mode       : Mode := .rebuilding .loadConfig
  startKind  : StartKind := .powerOn
  startOwed  : Option StartKind := none
  roots      : Table RootEntry := []
  blockFree  : FreeList := []
  slots      : Table SlotState := []
  slotFree   : FreeList := []
  retired    : List Nat := []
  exempt     : List ExemptRange := List.replicate 4 {}
  epoch      : Nat := 0
  bags       : Table BagRecord := []
  bagFree    : FreeList := []
  checkouts  : Table Checkout := []
  faults     : List FaultEntry := []
  unlisted   : Nat := 0
  contexts   : Table Context := []
  turn       : List Update := []
  holdRead   : Option Nat := none
  range      : Option RangeCheck := none
  releaseAll : Option ReleaseAll := none
  arrivals   : Nat := 0
  performs   : Nat := 0
  readies    : Nat := 0
  deriving DecidableEq, Repr

/-! ### Port unit -/

inductive FramerMode where
  | sync | hunt
  deriving DecidableEq, Repr

/-- A receive framer: its state and the bytes it holds (R173, R174). -/
structure Framer where
  mode : FramerMode := .hunt
  held : List Byte := []
  deriving DecidableEq, Repr

/-- An accepted request in a port's request queue (R177). -/
structure Queued where
  tag     : Nat
  arrival : Nat
  request : Request
  deriving DecidableEq, Repr

/-- A composed answer that waits for the answer queue; `ctx` is absent for a refusal of the port unit (R179). -/
structure WaitingAnswer where
  answer : Answer
  ctx    : Option Nat
  deriving DecidableEq, Repr

/-- A notice in a notice queue with its number (R182). -/
structure Notice where
  kind   : NoticeKind
  number : Nat
  body   : Body
  deriving DecidableEq, Repr

inductive TurnKind where
  | answer | notice
  deriving DecidableEq, Repr

/-- A turn in transmission: its frames as they go out on the lane (R180). -/
structure Turn where
  kind   : TurnKind
  frames : List (List Byte)
  deriving DecidableEq, Repr

/-- One client port (09). `lastTurn` is the kind the transmitter took last; a notice, so that an answer goes first. -/
structure Port where
  framer         : Framer := {}
  outstanding    : Nat := 0
  requests       : List Queued := []
  answers        : List Answer := []
  waitingAnswers : List WaitingAnswer := []
  notices        : List Notice := []
  noticeNumber   : Nat := 0
  turn           : Option Turn := none
  lastTurn       : TurnKind := .notice
  settings       : PortSettings := {}
  requestOverrun : Bool := false
  noticeOverrun  : Bool := false
  deriving DecidableEq, Repr

structure PortUnit where
  ports   : List Port := { settings := { caps := { supervise := true } } } :: List.replicate 3 {}
  routing : List (Option Nat) := List.replicate 8 (some 0)
  deriving DecidableEq, Repr

/-! ### Record memory -/

/-- The record memory, area by area (00, "The record memory"). -/
structure RecordMemory where
  signature : Bool := false
  settings  : Settings := {}
  meters    : MeterArea := {}
  roots     : Table RootCopy := []
  bags      : Table BagRecord := []
  blocks    : Table Block := []
  records   : Table StoredRecord := []
  tallies   : Table Tally := []
  deriving DecidableEq, Repr

/-! ### The part and the machine -/

/-- Everything but the queue of commands. `lines` are the 32 condition line inputs; `free` counts the free values
taken. -/
structure Part where
  power     : Bool := true
  resetLine : Bool := false
  lines     : List Bool := List.replicate 32 false
  zone      : ZoneUnit := {}
  tally     : TallyUnit := {}
  path      : RecordPath := {}
  engine    : Engine := {}
  port      : PortUnit := {}
  mem       : RecordMemory := {}
  free      : Nat := 0
  deriving DecidableEq, Repr

/-- The machine: the commands that wait, first in first out, and the part. -/
structure State where
  pending : List Instr := []
  part    : Part := {}
  deriving DecidableEq, Repr

/-- Why a step stops with a fault: the command names a unit the part does not have (log 3; safe). Raised by the
meanings whose operand is out of range, before anything is changed. -/
inductive Fault where
  /-- A port above 3 (safe). -/
  | noSuchPort
  /-- A zone above 31 (safe). -/
  | noSuchZone
  /-- A due list above 255 (safe). -/
  | noSuchList
  /-- A miss file entry above 7 (safe). -/
  | noSuchEntry
  /-- A request context above 15 (safe). -/
  | noSuchContext
  deriving DecidableEq, Repr

/-- Why a command has no meaning. -/
inductive Refusal where
  /-- Raised by an arm of `exec` that has no meaning yet; no arm of this model is such (safe). -/
  | notModelled (mnemonic : String)
  deriving DecidableEq, Repr

/-- The machine right after power-on or the release of the reset line (R202, with the values of R24, R59, R75, R91,
R115, R134, R158, R170, R186 for that start): mode REBUILDING in phase LOAD_CONFIG, the wall minute unset, every queue,
list and context empty, the settings at their defaults until they are loaded. The record memory is one that was never
formatted (DESIGN CHOICE, log 5; unsafe) and the condition lines are deasserted (DESIGN CHOICE, log 6; unsafe). -/
def State.reset : State := { pending := [], part := {} }

end Sys2Proof.Machine
end

