-- ==== Sys2Proof/Machine/Flags.lean ====
section
/-! DEFINITION. The conditions and reckonings that rules read from fields without storing them: trips, bands, staleness,
the advance of a zone, exposure, remaining minutes, marks, dry credit, reported state, holds, exempt matches. -/

namespace Sys2Proof.Machine

/-! ### Zones (01) -/

/-- R10: tripped when the latch is set, or in LEVEL mode while the line is asserted. -/
def Zone.tripped (z : Zone) : Bool := z.tripLatch || (z.lineMode == .level && z.lineLevel)

/-- R10: the fallback band while tripped or stale, the present band otherwise. -/
def Zone.effectiveBand (z : Zone) : Nat := if z.tripped || z.stale then z.fallback else z.presentBand

/-- R6: both limits at or above the reading. -/
def BandLimits.admits (b : BandLimits) (temperature : Int) (humidity : Nat) : Bool :=
  humidity ≤ b.humidity && temperature ≤ b.temperature

/-- R6: the lowest-numbered band that admits the reading; band 7 when none of the seven does. -/
def classifyReading (bands : List BandLimits) (temperature : Int) (humidity : Nat) : Nat :=
  (bands.findIdx? (fun b => b.admits temperature humidity)).getD 7

/-- R11: the wall minute less the last reading minute, 0 when the clock went back. -/
def Zone.readingAge (minute : Nat) (last : Nat) : Nat := minute - last

/-- R11: the stale flag a refresh leaves. -/
def Zone.staleAt (z : Zone) (minute : Nat) : Bool :=
  z.staleLimit != 0 &&
    (match z.lastReading with
     | none => true
     | some last => z.staleLimit ≤ Zone.readingAge minute last)

/-- The weight of a band and class (R7). -/
def weightAt (weights : List (List Nat)) (band cls : Nat) : Nat := (weights.getD band []).getD cls 0

/-- R3: an addition that would pass 2^40 - 1 leaves the meter there. -/
def addGrains (m g : Nat) : Nat := min (m + g) Config.maxGrains

/-- Adds one band's weights to the eight computed meters. -/
def addWeights (weights : List (List Nat)) (band factor : Nat) (meters : List Nat) : List Nat :=
  meters.mapIdx fun cls m => addGrains m (factor * weightAt weights band cls)

/-- R20, step 2 of the minute's zone work for one zone. -/
def Zone.advanced (weights : List (List Nat)) (z : Zone) : Zone :=
  match z.kind, z.bake with
  | .floor, _ => { z with metersComputed := addWeights weights z.effectiveBand 1 z.metersComputed }
  | .dry, _ =>
    if z.tripped || z.stale then { z with metersComputed := addWeights weights z.fallback 1 z.metersComputed }
    else { z with dryComputed := min (z.dryComputed + 1) Config.maxMinute }
  | .oven, .idle => { z with metersComputed := addWeights weights z.effectiveBand 1 z.metersComputed }
  | .oven, .running _ _ => z
  | .oven, .completing _ _ => z

/-- R207: the gap charge of one zone, at fallback weights whatever its kind or condition. -/
def Zone.gapCharged (weights : List (List Nat)) (gap : Nat) (z : Zone) : Zone :=
  { z with metersComputed := addWeights weights z.fallback gap z.metersComputed }

/-- R192: the pending settings applied; a capacity stays pending while the occupancy is above it. -/
def Zone.applyPending (occupancy : Nat) (z : Zone) : Zone :=
  { z with
    fallback := z.pendFallback
    staleLimit := z.pendStaleLimit
    capacity := if z.pendCapacity = 0 ∨ occupancy ≤ z.pendCapacity then z.pendCapacity else z.capacity }

/-- The zone's bake is not IDLE (R41, R77). -/
def Zone.baking (z : Zone) : Bool := z.bake != .idle

/-- R1: the wall minute after a tick. -/
def nextMinute (m : Nat) : Nat := if m = Config.maxMinute then 0 else m + 1

/-- R196: the jump, taken without sign and without wrapping. -/
def minuteJump (a b : Nat) : Nat := (a - b) + (b - a)

/-! ### Accounts (02) -/

/-- R28: banked exposure plus the meter's gain since entry, saturated. -/
def exposureOf (banked meter entry : Nat) : Nat := min (banked + (meter - entry)) Config.maxGrains

def Account.expired (a : Account) : Bool := a.expiredAt.isSome

/-- R29: remaining whole minutes; none is the unlimited value. -/
def remainingOf (c : ClassEntry) (expired : Bool) (exposure : Nat) : Option Nat :=
  if c.budget = 0 then none
  else if expired || c.budget * 16 ≤ exposure then some 0
  else some ((c.budget * 16 - exposure) / 16)

/-- R30: the meter value at which the budget is used up. -/
def dueMarkOf (c : ClassEntry) (expired : Bool) (banked entry : Nat) : Nat :=
  if expired || c.budget * 16 ≤ banked then entry else entry + c.budget * 16 - banked

/-- R30: the due mark less the margin, floored at 0. -/
def warnMarkOf (c : ClassEntry) (due : Nat) : Nat := due - c.warnMargin * 16

/-- R42: dry credit in grains. -/
def dryCreditOf (c : ClassEntry) (dryMinutes banked : Nat) : Nat :=
  if c.creditRatio = 0 then 0
  else min (min (dryMinutes / c.creditRatio * 16) (c.creditCap * 16)) banked

/-- R37: the account of a new tally at the end of its insertion, with the notice it gives. `minute` is what expired-at
takes. -/
def flagsAtInsertion (a : Account) (meter due warn minute : Nat) : Account × Option NoticeKind :=
  if a.expired then (a, none)
  else if due ≤ meter then ({ a with warned := true, expiredAt := some minute }, some .expired)
  else if warn ≤ meter then ({ a with warned := true }, if a.warned then none else some .warn)
  else ({ a with warned := false }, none)

/-- The reported states in the order of R27. -/
inductive Reported where
  | sealed | exhausted | expired | baking | dry | open_
  deriving DecidableEq, Repr

/-- R27: the first line that applies; FREE and FOLLOWING tallies have no reported state of their own. -/
def reportedState (t : Tally) (zones : List Zone) : Option Reported :=
  match t with
  | .free | .following _ _ => none
  | .sealed _ _ _ => some .sealed
  | .resident r =>
    let z := zones.getD r.zone {}
    if r.acct.exhausted then some .exhausted
    else if r.acct.expired then some .expired
    else if z.kind == .oven && z.baking then some .baking
    else if z.kind == .dry then some .dry
    else some .open_

/-- R51: the account of a bag tally combined from its members, the worst of each. -/
def combineAccounts (as : List Account) : Account :=
  as.foldl (fun acc a =>
    { banked := max acc.banked a.banked
      warned := acc.warned || a.warned
      exhausted := acc.exhausted || a.exhausted
      expiredAt := match acc.expiredAt, a.expiredAt with
        | some x, some y => some (min x y)
        | some x, none => some x
        | none, y => y
      bakeCount := max acc.bakeCount a.bakeCount }) {}

def Tally.cls? : Tally → Option Nat
  | .free => none
  | .sealed _ c _ => some c
  | .resident r => some r.cls
  | .following _ c => some c

def Tally.acct? : Tally → Option Account
  | .sealed _ _ a => some a
  | .resident r => some r.acct
  | .free | .following _ _ => none

def Tally.owner? : Tally → Option Owner
  | .free => none
  | .sealed o _ _ => some o
  | .resident r => some r.owner
  | .following o _ => some o

/-- R40: how many carriers a RESIDENT tally counts in its zone. -/
def Resident.carriers (r : Resident) : Nat := r.members.getD 1

/-- R31: the list of a zone and class. -/
def listOf (zone cls : Nat) : Nat := zone * 8 + cls

/-! ### Keys, holds and exempt ranges (05) -/

/-- The key as the 32-bit number of a frame. -/
def keyWord (k : Key) : BitVec 32 := k.consignor ++ k.lot ++ k.serial

def keyOfWord (w : BitVec 32) : Key :=
  { consignor := w.extractLsb' 24 8, lot := w.extractLsb' 12 12, serial := w.extractLsb' 0 12 }

/-- Consignor and lot digits as the 20 bits a mask lies over (R106, R172). -/
def routeDigits (consignor : BitVec 8) (lot : BitVec 12) : BitVec 20 := consignor ++ lot

/-- R106: the digits equal the base in every bit whose mask bit is clear. -/
def ExemptRange.coversLot (r : ExemptRange) (consignor : BitVec 8) (lot : BitVec 12) : Bool :=
  ((routeDigits consignor lot ^^^ routeDigits r.consignor r.lot) &&& ~~~r.mask) == 0

def ExemptRange.covers (r : ExemptRange) (k : Key) : Bool := r.enabled && r.coversLot k.consignor k.lot

/-- R106: the lowest-numbered range that the key matches, with its answer. -/
def exemptOutcome (ranges : List ExemptRange) (k : Key) : Option (Bool × Nat) :=
  (ranges.findIdx? (fun r => r.covers k)).map fun i => ((ranges.getD i {}).barred, i)

/-- R110: the highest set hold in the order consignor, lot, bag, carrier, with its reason. -/
def effectiveHold (con lot bag carrier : Option Nat) : Option (HoldLevel × Nat) :=
  match con, lot, bag, carrier with
  | some r, _, _, _ => some (.consignor, r)
  | none, some r, _, _ => some (.lot, r)
  | none, none, some r, _ => some (.bag, r)
  | none, none, none, some r => some (.carrier, r)
  | none, none, none, none => none

/-- The fields of a record as the check word is computed over them (R129, R145). -/
def CarrierRecord.words (r : CarrierRecord) : List Nat :=
  let opt : Option Nat → List Nat := fun o => match o with
    | none => [0]
    | some v => [1, v]
  (keyWord r.primary).toNat :: r.aliases.length :: r.aliases.map (fun k => (keyWord k).toNat) ++ opt r.link
    ++ opt r.hold ++ opt r.checkout ++ r.watch.length :: r.watch ++ [r.enrolled]

/-- The check word that a record of a slot carries (R129). -/
def checkWordOf (slot : Nat) (r : CarrierRecord) : Nat := Config.checkWord slot r.words

/-- R129: the stored check word equals the one computed afresh for this slot. -/
def StoredRecord.sound (slot : Nat) (s : StoredRecord) : Bool := s.check == checkWordOf slot s.record

/-- Replaces element `i` of a list by `f` of it. -/
def modifyAt {α : Type} (l : List α) (i : Nat) (f : α → α) : List α :=
  l.mapIdx fun j a => if j = i then f a else a

end Sys2Proof.Machine
end

