-- ==== Sys2Proof/Machine/Operands.lean ====
section
/-! DEFINITION. Frames and bodies (R171, R172): the check, the layout, the fields of answers and notices, and the reading
of the 36 request bodies. Field widths that R172 leaves to the stated range are DEDUCED (log 16); numberings of
enumerations are DEDUCED (log 17). -/

namespace Sys2Proof.Machine

/-! ### The check -/

/-- One left shift of the check register, combined with 0x1021 when a 1 is shifted out (R171). -/
def crcShift (r : BitVec 16) : BitVec 16 := if r.msb then (r <<< 1) ^^^ 0x1021#16 else r <<< 1

def crcShifts : Nat → BitVec 16 → BitVec 16
  | 0, r => r
  | k + 1, r => crcShifts k (crcShift r)

/-- One byte combined into the upper 8 bits, then eight shifts (R171). -/
def crcByte (r : BitVec 16) (b : Byte) : BitVec 16 := crcShifts 8 (r ^^^ (b.setWidth 16 <<< 8))

/-- The check over header and body (R171): starts at 0xFFFF, no final inversion. -/
def frameCheck (bytes : List Byte) : BitVec 16 := bytes.foldl crcByte 0xFFFF#16

/-! ### Numbers and fields -/

/-- A number, least significant byte first (R172). -/
def numberBytes : Nat → Nat → List Byte
  | 0, _ => []
  | w + 1, v => BitVec.ofNat 8 v :: numberBytes w (v / 256)

def Field.bytes (f : Field) : List Byte := numberBytes f.width f.value

def bodyBytes (b : Body) : List Byte := b.flatMap Field.bytes

def fNum (width value : Nat) : Field := ⟨width, value⟩
/-- Flag: 1 byte, 0 clear, 1 set. -/
def fFlag (b : Bool) : Field := ⟨1, if b then 1 else 0⟩
def fKey (k : Key) : Field := ⟨4, (keyWord k).toNat⟩
/-- Optional field: a presence byte, then the field when present. -/
def fOpt (width : Nat) : Option Nat → Body
  | none => [⟨1, 0⟩]
  | some v => [⟨1, 1⟩, ⟨width, v⟩]
/-- List: a count byte, then the entries. -/
def fList {α : Type} (entry : α → Body) (l : List α) : Body := ⟨1, l.length⟩ :: l.flatMap entry
/-- Temperature: two's complement. -/
def fTemp (t : Int) : Field := ⟨2, (t % 65536).toNat⟩
/-- Remaining minutes; 0xFFFFFFFF for an unlimited class. -/
def fRemaining : Option Nat → Field
  | none => ⟨4, 0xFFFFFFFF⟩
  | some m => ⟨4, m⟩
/-- Exposure in whole minutes: the grains divided by 16, rounded down. What the 4 bytes of R172 carry where the minutes do not
fit them is not stated: a free value (log 64). -/
def fExposure (grains : Nat) : Field :=
  ⟨4, if grains / 16 ≤ 0xFFFFFFFF then grains / 16 else Config.unstatedExposure grains⟩
def fMinute (m : Nat) : Field := ⟨4, m⟩
def fOptMinute : Option Nat → Body := fOpt 4
def fPorts (ports : List Nat) : Field := ⟨1, (ports.map (fun p => 2 ^ p)).sum⟩
def fCaps (c : Caps) : Field :=
  ⟨1, (if c.station then 1 else 0) + (if c.climate then 2 else 0) + (if c.quality then 4 else 0)
      + (if c.supervise then 8 else 0)⟩

/-! ### Enumerations (numbered in the order the manual first lists them) -/

def Status.code : Status → Nat
  | .ok => 0 | .notFound => 1 | .exists_ => 2 | .badField => 3 | .notPermitted => 4 | .portDisabled => 5
  | .notReady => 6 | .readOnly => 7 | .timeJump => 8 | .keyExempt => 9 | .recordFault => 10 | .heldElsewhere => 11
  | .notHeld => 12 | .onHold => 13 | .expired => 14 | .exhausted => 15 | .wrongState => 16 | .wrongZoneKind => 17
  | .zoneFull => 18 | .zoneTripped => 19 | .zoneOccupied => 20 | .ovenBusy => 21 | .noBakeTimer => 22
  | .bakeFinishing => 23 | .classMismatch => 24 | .classInUse => 25 | .rangeInUse => 26 | .noSlot => 27
  | .noTable => 28 | .noBag => 29 | .noCheckoutSpace => 30 | .aliasLimit => 31 | .faultsPending => 32

/-- The result codes of tally commands in the order of R43. -/
def Status.resultCode : Status → Nat
  | .badField => 1 | .wrongState => 2 | .classMismatch => 3 | .zoneFull => 4 | .ovenBusy => 5
  | _ => 0

def NoticeKind.code : NoticeKind → Nat
  | .warn => 1 | .expired => 2 | .released => 3 | .bakeDone => 4 | .bakeAborted => 5 | .zoneTrip => 6
  | .zoneStale => 7 | .recordFault => 8 | .modeChange => 9 | .linkFault => 10

/-- The place of a routed kind in the routing table (the order of R183). -/
def NoticeKind.routeIndex : NoticeKind → Option Nat
  | .warn => some 0 | .expired => some 1 | .bakeDone => some 2 | .bakeAborted => some 3 | .zoneTrip => some 4
  | .zoneStale => some 5 | .recordFault => some 6 | .modeChange => some 7
  | .released | .linkFault => none

/-- The routed kind that a notice kind code names in a ROUTE_SET (R194). -/
def routeIndexOfCode : Nat → Option Nat
  | 1 => some 0 | 2 => some 1 | 4 => some 2 | 5 => some 3 | 6 => some 4 | 7 => some 5 | 8 => some 6 | 9 => some 7
  | _ => none

/-- The notice kind code of each place of the routing table. -/
def routedCodes : List Nat := [1, 2, 4, 5, 6, 7, 8, 9]

/-- PRIMARY or ALIAS in the answer of LOOKUP (R147). -/
def KeyForm.code : KeyForm → Nat
  | .primary => 0
  | .aliased => 1

def ZoneKind.code : ZoneKind → Nat
  | .floor => 0 | .dry => 1 | .oven => 2
def ZoneKind.ofCode : Nat → Option ZoneKind
  | 0 => some .floor | 1 => some .dry | 2 => some .oven | _ => none
def LineMode.code : LineMode → Nat
  | .off => 0 | .level => 1 | .edge => 2
def LineMode.ofCode : Nat → Option LineMode
  | 0 => some .off | 1 => some .level | 2 => some .edge | _ => none
def Bake.code : Bake → Nat
  | .idle => 0 | .running _ _ => 1 | .completing _ _ => 2
def TripCause.code : TripCause → Nat
  | .lineLevel => 0 | .lineEdge => 1 | .request => 2 | .modeChange => 3
def BakeAbortCause.code : BakeAbortCause → Nat
  | .stop => 0 | .trip => 1 | .start => 2
def ReleaseCause.code : ReleaseCause → Nat
  | .release => 0 | .releaseAll => 1 | .retired => 2 | .start => 3
def LinkCause.code : LinkCause → Nat
  | .sync => 0 | .length => 1 | .check => 2 | .kind => 3
def ModeCause.code : ModeCause → Nat
  | .noSignature => 0 | .rebuilt => 1 | .startDone => 2 | .unlistedFaults => 3 | .faultListFull => 4
  | .faultClear => 5
def HoldLevel.code : HoldLevel → Nat
  | .consignor => 0 | .lot => 1 | .bag => 2 | .carrier => 3
def Mode.code : Mode → Nat
  | .unformatted => 0 | .rebuilding _ => 1 | .awaitTime => 2 | .running => 3 | .readOnly => 4
def Phase.code : Phase → Nat
  | .clearing => 0 | .loadConfig => 1 | .loadZones => 2 | .scanDirectory => 3 | .scanTallies => 4 | .chargeGap => 5
def Reported.code : Reported → Nat
  | .sealed => 0 | .exhausted => 1 | .expired => 2 | .baking => 3 | .dry => 4 | .open_ => 5

/-- A tally owner: form 0 a primary key, form 1 a bag number with its member count (R172). -/
def fOwner (o : Owner) (members : Option Nat) : Body :=
  match o with
  | .carrier k => [⟨1, 0⟩, fKey k]
  | .bag b => [⟨1, 1⟩, ⟨2, b⟩, ⟨2, members.getD 0⟩]

/-! ### Frames -/

/-- A frame on the lane: header, body, check low byte first (R171). -/
def frameBytes (frameKind code tag flags : Nat) (body : List Byte) : List Byte :=
  let head : List Byte :=
    [0xC5#8, BitVec.ofNat 8 frameKind, BitVec.ofNat 8 code, BitVec.ofNat 8 tag, BitVec.ofNat 8 flags,
      BitVec.ofNat 8 body.length]
  head ++ body ++ numberBytes 2 (frameCheck (head ++ body)).toNat

/-- The body cut into pieces of 248 bytes in order, the last holding what remains (R180). The fuel is the body's
length. -/
def bodyPieces : Nat → List Byte → List (List Byte)
  | 0, l => [l]
  | fuel + 1, l =>
    if l.length ≤ Config.maxBody then [l] else l.take Config.maxBody :: bodyPieces fuel (l.drop Config.maxBody)

/-- The frames of a run: each but the last has the continued flag, the first carries the overrun bit (R180, R181). -/
def runFrames (code tag : Nat) (overrun : Bool) : List (List Byte) → List (List Byte)
  | [] => []
  | [p] => [frameBytes 2 code tag (if overrun then 1 else 0) p]
  | p :: rest => frameBytes 2 code tag ((if overrun then 1 else 0) + 4) p :: runFrames code tag false rest

/-- The frames of an answer turn (R180). -/
def answerFrames (a : Answer) (overrun : Bool) : List (List Byte) :=
  let bytes := bodyBytes a.body
  runFrames a.code a.tag overrun (bodyPieces bytes.length bytes)

/-- The frame of a notice turn (R180, R181). -/
def noticeFrame (n : Notice) (overrun : Bool) : List Byte :=
  frameBytes 3 n.kind.code n.number (if overrun then 2 else 0) (bodyBytes n.body)

/-! ### Request bodies -/

/-- A reader of body bytes: what it reads and the bytes left, or nothing when the bytes do not fit. -/
abbrev BodyReader (α : Type) := StateT (List Byte) Option α

def readByte : BodyReader Nat := fun l =>
  match l with
  | [] => none
  | b :: r => some (b.toNat, r)

/-- A number of `w` bytes, least significant first. -/
def readNum : Nat → BodyReader Nat
  | 0 => pure 0
  | w + 1 => do
    let b ← readByte
    let r ← readNum w
    pure (b + 256 * r)

def readKey : BodyReader Key := do
  let w ← readNum 4
  pure (keyOfWord (BitVec.ofNat 32 w))

/-- A presence byte, 0 or 1, then the field when present. -/
def readOpt (w : Nat) : BodyReader (Option Nat) := do
  let p ← readByte
  match p with
  | 0 => pure none
  | 1 => do
    let v ← readNum w
    pure (some v)
  | _ => failure

def readTimes {α : Type} (f : BodyReader α) : Nat → BodyReader (List α)
  | 0 => pure []
  | k + 1 => do
    let a ← f
    let r ← readTimes f k
    pure (a :: r)

/-- A count byte within 1 to `most`, then the entries. -/
def readList {α : Type} (f : BodyReader α) (most : Nat) : BodyReader (List α) := do
  let n ← readByte
  if 1 ≤ n ∧ n ≤ most then readTimes f n else failure

/-- Two's complement of two bytes. -/
def readTemp : BodyReader Int := do
  let w ← readNum 2
  pure (if w < 32768 then (w : Int) else (w : Int) - 65536)

/-- The target of a HOLD or UNHOLD, in the form its level decides; an unknown level has no form, so the body is not
well formed (DEDUCED, log 18). -/
def readTarget : BodyReader HoldTarget := do
  let level ← readByte
  match level with
  | 0 => do
    let c ← readNum 1
    pure (.consignor c)
  | 1 => do
    let c ← readNum 1
    let l ← readNum 2
    pure (.lot c l)
  | 2 => do
    let b ← readNum 2
    pure (.bag b)
  | 3 => do
    let k ← readKey
    pure (.carrier k)
  | _ => failure

/-- A destination of ROUTE_SET: form 0 a port, form 1 NONE. -/
def readRoute : BodyReader (Nat × Option Nat) := do
  let kind ← readNum 1
  let form ← readByte
  match form with
  | 0 => do
    let p ← readNum 1
    pure (kind, some p)
  | 1 => pure (kind, none)
  | _ => failure

def readEnroll : BodyReader Request := do
  let k ← readKey
  let c ← readNum 1
  let e ← readOpt 4
  let b ← readOpt 1
  pure (.enroll k c e b)

def readVerify : BodyReader Request := do
  let k ← readKey
  let t ← readNum 1
  let n ← readNum 4
  pure (.verify k t n)

def readOpen : BodyReader Request := do
  let z ← readNum 1
  let ks ← readList readKey 16
  pure (.openKeys z ks)

def readMove : BodyReader Request := do
  let k ← readKey
  let z ← readNum 1
  let t ← readOpt 1
  pure (.move k z t)

def readRetire : BodyReader Request := do
  let k ← readKey
  let r ← readNum 1
  let t ← readOpt 1
  pure (.retire k r t)

def readRelabel : BodyReader Request := do
  let a ← readKey
  let b ← readKey
  let t ← readOpt 1
  pure (.relabel a b t)

def readCheckout : BodyReader Request := do
  let k ← readKey
  let t ← readNum 1
  let w ← readNum 1
  pure (.checkout k t w)

def readRelease : BodyReader Request := do
  let k ← readKey
  let t ← readNum 1
  pure (.release k t)

def readMoveGroup : BodyReader Request := do
  let b ← readNum 2
  let z ← readNum 1
  pure (.moveGroup b z)

def readListDue : BodyReader Request := do
  let z ← readNum 1
  let c ← readNum 1
  let s ← readNum 2
  let n ← readNum 2
  pure (.listDue z c s n)

def readListCheckouts : BodyReader Request := do
  let p ← readOpt 1
  let t ← readOpt 1
  let s ← readNum 2
  let n ← readNum 2
  pure (.listCheckouts p t s n)

def readHold (un : Bool) : BodyReader Request := do
  let t ← readTarget
  let r ← readNum 1
  pure (if un then .unhold t r else .hold t r)

def readClimate : BodyReader Request := do
  let z ← readNum 1
  let t ← readTemp
  let h ← readNum 2
  pure (.climate z t h)

def readBakeStart : BodyReader Request := do
  let z ← readNum 1
  let m ← readNum 2
  pure (.bakeStart z m)

def readClassSet : BodyReader Request := do
  let c ← readNum 1
  let b ← readNum 4
  let m ← readNum 4
  let r ← readNum 1
  let cap ← readNum 4
  let mb ← readNum 2
  let l ← readNum 1
  pure (.classSet c { budget := b, warnMargin := m, creditRatio := r, creditCap := cap, minBake := mb, bakeLimit := l })

def readBandSet : BodyReader Request := do
  let b ← readNum 1
  let h ← readNum 2
  let t ← readTemp
  pure (.bandSet b h t)

def readWeightSet : BodyReader Request := do
  let b ← readNum 1
  let c ← readNum 1
  let w ← readNum 1
  pure (.weightSet b c w)

def readZoneSet : BodyReader Request := do
  let z ← readNum 1
  let k ← readOpt 1
  let c ← readOpt 2
  let f ← readOpt 1
  let s ← readOpt 1
  let m ← readOpt 1
  pure (.zoneSet z k c f s m)

def readPortSet : BodyReader Request := do
  let p ← readNum 1
  let e ← readNum 1
  let c ← readNum 1
  pure (.portSet p e c)

def readConsignorSet : BodyReader Request := do
  let c ← readNum 1
  let p ← readNum 1
  pure (.consignorSet c p)

def readExemptSet : BodyReader Request := do
  let r ← readNum 1
  let e ← readNum 1
  let c ← readNum 1
  let l ← readNum 2
  let m ← readNum 3
  let a ← readNum 1
  pure (.exemptSet r e c l m a)

def readForceRetire : BodyReader Request := do
  let p ← readNum 1
  let s ← readNum 2
  pure (.forceRetire p s)

def readReleaseAll : BodyReader Request := do
  let p ← readOpt 1
  let t ← readOpt 1
  pure (.releaseAll p t)

/-- The reader of a request code's body (R172: codes 1 to 36 in this order); no reader for any other code. -/
def requestReader : Nat → Option (BodyReader Request)
  | 1 => some readEnroll
  | 2 => some (Request.lookup <$> readKey)
  | 3 => some readVerify
  | 4 => some readOpen
  | 5 => some readMove
  | 6 => some (Request.seal <$> readKey)
  | 7 => some readRetire
  | 8 => some readRelabel
  | 9 => some readCheckout
  | 10 => some readRelease
  | 11 => some readMoveGroup
  | 12 => some (Request.listBag <$> readNum 2)
  | 13 => some readListDue
  | 14 => some readListCheckouts
  | 15 => some (readHold false)
  | 16 => some (readHold true)
  | 17 => some readClimate
  | 18 => some (Request.trip <$> readNum 1)
  | 19 => some (Request.clearTrip <$> readNum 1)
  | 20 => some readBakeStart
  | 21 => some (Request.bakeStop <$> readNum 1)
  | 22 => some (pure .status)
  | 23 => some readClassSet
  | 24 => some readBandSet
  | 25 => some readWeightSet
  | 26 => some readZoneSet
  | 27 => some readPortSet
  | 28 => some readConsignorSet
  | 29 => some (Request.routeSet <$> readList readRoute 8)
  | 30 => some readExemptSet
  | 31 => some (Request.timeSet <$> readNum 4)
  | 32 => some readForceRetire
  | 33 => some (pure .faultClear)
  | 34 => some readReleaseAll
  | 35 => some (pure .restart)
  | 36 => some (pure .format)
  | _ => none

/-- A well-formed body (R172): a code of 1 to 36 and exactly the length its fields take. -/
def parseRequest (code : Nat) (body : List Byte) : Option Request :=
  match requestReader code with
  | none => none
  | some r =>
    match r body with
    | some (q, []) => some q
    | _ => none

/-- The request code (R172). -/
def requestCode : Request → Nat
  | .enroll .. => 1 | .lookup .. => 2 | .verify .. => 3 | .openKeys .. => 4 | .move .. => 5 | .seal .. => 6
  | .retire .. => 7 | .relabel .. => 8 | .checkout .. => 9 | .release .. => 10 | .moveGroup .. => 11
  | .listBag .. => 12 | .listDue .. => 13 | .listCheckouts .. => 14 | .hold .. => 15 | .unhold .. => 16
  | .climate .. => 17 | .trip .. => 18 | .clearTrip .. => 19 | .bakeStart .. => 20 | .bakeStop .. => 21
  | .status => 22 | .classSet .. => 23 | .bandSet .. => 24 | .weightSet .. => 25 | .zoneSet .. => 26
  | .portSet .. => 27 | .consignorSet .. => 28 | .routeSet .. => 29 | .exemptSet .. => 30 | .timeSet .. => 31
  | .forceRetire .. => 32 | .faultClear => 33 | .releaseAll .. => 34 | .restart => 35 | .format => 36

/-- The capability each request needs (R178): by request code, whether the set holds it. -/
def Caps.allow (c : Caps) (code : Nat) : Bool :=
  if code ∈ [1, 4, 5, 6, 7, 8, 9, 10, 11, 20, 21] then c.station
  else if code ∈ [17, 18, 19] then c.climate
  else if code ∈ [15, 16] then c.quality
  else if code ∈ [23, 24, 25, 26, 27, 28, 29, 30, 31, 32, 33, 34, 35, 36] then c.supervise
  else true

/-! ### What the framer makes of the bytes it holds (R173 to R175) -/

/-- What the held bytes decide: nothing yet; a loss of sync; a candidate rejected, with the bytes hunted through again;
a sound frame (kind, code, tag, body) with the bytes after it. -/
inductive FramerEvent where
  | lose (cause : LinkCause)
  | reject (rest : List Byte)
  | frame (kind code tag : Nat) (body rest : List Byte)
  deriving DecidableEq, Repr

/-- The first bytes read as a frame: over-long body, still incomplete, unsound, or sound. -/
inductive FrameRead where
  | short
  | long
  | unsound (rest : List Byte)
  | sound (kind code tag : Nat) (body rest : List Byte)
  deriving DecidableEq, Repr

/-- Reads a header, body and check from the held bytes (R171, R173). -/
def readFrame (held : List Byte) : FrameRead :=
  match held with
  | _ :: kind :: code :: tag :: _ :: len :: after =>
    if Config.maxBody < len.toNat then .long
    else if after.length < len.toNat + 2 then .short
    else
      let covered := held.take (6 + len.toNat)
      let check := (after.drop len.toNat).take 2
      let rest := after.drop (len.toNat + 2)
      if check = numberBytes 2 (frameCheck covered).toNat then
        .sound kind.toNat code.toNat tag.toNat (after.take len.toNat) rest
      else .unsound rest
  | _ => .short

/-- The next event of a framer (R174). In HUNT the bytes before the next sync byte are discarded by the caller. A
rejected candidate leaves the bytes taken after its sync byte. -/
def Framer.event (f : Framer) : Option FramerEvent :=
  match f.mode with
  | .sync =>
    match f.held with
    | [] => none
    | b :: _ =>
      if b ≠ 0xC5#8 then some (.lose .sync)
      else
        match readFrame f.held with
        | .short => none
        | .long => some (.lose .length)
        | .unsound _ => some (.lose .check)
        | .sound k c t body rest => some (.frame k c t body rest)
  | .hunt =>
    match f.held.dropWhile (· ≠ 0xC5#8) with
    | [] => none
    | b :: r =>
      match readFrame (b :: r) with
      | .short => none
      | .long => some (.reject r)
      | .unsound _ => some (.reject r)
      | .sound k c t body rest => some (.frame k c t body rest)

/-- The bytes a framer still holds after it has lost sync (R174): the frame's bytes taken so far are discarded. For
cause SYNC that is the one bad byte, for LENGTH the header, for CHECK the whole frame. -/
def Framer.afterLoss (f : Framer) (cause : LinkCause) : List Byte :=
  match cause with
  | .sync => f.held.drop 1
  | .length => f.held.drop 6
  | .check | .kind =>
    match readFrame f.held with
    | .unsound rest => rest
    | _ => []

end Sys2Proof.Machine
end

