-- ==== Sys2Proof/Machine/Ops.lean ====
section
/-! DEFINITION. Operations that the blocks share: sparse tables and free lists, notices and answers, the write stream, the
reads of the record path, the arbiter of the record-memory port, tally-area and meter-area writes. -/

namespace Sys2Proof.Machine

/-! ### Tables -/

def tfind {α : Type} : Table α → Nat → Option α
  | [], _ => none
  | (i, a) :: r, k => if i = k then some a else tfind r k

/-- Writes entry `k`, keeping indices strictly rising. -/
def tput {α : Type} : Table α → Nat → α → Table α
  | [], k, a => [(k, a)]
  | (i, b) :: r, k, a =>
    if k < i then (k, a) :: (i, b) :: r
    else if k = i then (k, a) :: r
    else (i, b) :: tput r k a

def tdel {α : Type} : Table α → Nat → Table α
  | [], _ => []
  | (i, b) :: r, k => if i = k then tdel r k else (i, b) :: tdel r k

/-- The entry, or what an unlisted entry reads as. -/
def tget {α : Type} (t : Table α) (k : Nat) (dflt : α) : α := (tfind t k).getD dflt

/-- Writes an entry in canonical form: what an unlisted entry reads as is not listed. -/
def tset {α : Type} [DecidableEq α] (t : Table α) (k : Nat) (a dflt : α) : Table α :=
  if a = dflt then tdel t k else tput t k a

/-- Indices strictly rising. -/
def Table.rising {α : Type} : Table α → Bool
  | [] => true
  | [_] => true
  | (i, _) :: (j, b) :: r => decide (i < j) && Table.rising ((j, b) :: r)

/-- The canonical form: indices strictly rising, nothing listed that an unlisted entry reads as. -/
def Table.wf {α : Type} [DecidableEq α] (dflt : α) (t : Table α) : Bool :=
  Table.rising t && t.all fun e => decide (e.2 ≠ dflt)

/-! ### Free lists -/

/-- Takes the number at the head. -/
def FreeList.pop : FreeList → Option (Nat × FreeList)
  | [] => none
  | (a, n) :: r => if n ≤ 1 then some (a, r) else some (a, (a + 1, n - 1) :: r)

/-- Puts a number at the tail; a run it continues grows. -/
def FreeList.push : FreeList → Nat → FreeList
  | [], x => [(x, 1)]
  | [(a, n)], x => if a + n = x then [(a, n + 1)] else [(a, n), (x, 1)]
  | e :: r, x => e :: FreeList.push r x

/-- Puts a number back at the head. -/
def FreeList.pushHead : FreeList → Nat → FreeList
  | [], x => [(x, 1)]
  | (a, n) :: r, x => if x + 1 = a then (x, n + 1) :: r else (x, 1) :: (a, n) :: r

def FreeList.size : FreeList → Nat
  | [] => 0
  | (_, n) :: r => n + FreeList.size r

/-- The numbers of a free list in the order in which they will be taken. -/
def FreeList.numbers : FreeList → List Nat
  | [] => []
  | (a, n) :: r => List.range' a n ++ FreeList.numbers r

/-- The numbers from `start` to `stop - 1` that are not in an ascending list, in ascending order. -/
def FreeList.outside (start stop : Nat) : List Nat → FreeList
  | [] => if start < stop then [(start, stop - start)] else []
  | u :: r => if start < u then (start, u - start) :: FreeList.outside (u + 1) stop r
              else FreeList.outside (u + 1) stop r

/-- Inserts a number into an ascending list without repeats: sets of ports, lists and blocks. -/
def insertSorted (x : Nat) : List Nat → List Nat
  | [] => [x]
  | y :: r => if x < y then x :: y :: r else if x = y then y :: r else y :: insertSorted x r

/-! ### Reading and changing one unit -/

def Part.zoneAt (p : Part) (z : Nat) : Zone := p.zone.zones.getD z {}
def Part.classAt (p : Part) (c : Nat) : ClassEntry := p.zone.classes.getD c {}
def Part.portAt (p : Part) (i : Nat) : Port := p.port.ports.getD i {}
def Part.tallyAt (p : Part) (n : Nat) : Tally := tget p.tally.table n .free
def Part.listAt (p : Part) (l : Nat) : DueList := tget p.tally.lists l {}
def Part.rootAt (p : Part) (c : Nat) : RootEntry := tget p.engine.roots c {}
def Part.slotAt (p : Part) (s : Nat) : SlotState := tget p.engine.slots s .free
def Part.bagAt (p : Part) (b : Nat) : BagRecord := tget p.engine.bags b .free
def Part.ctx? (p : Part) (c : Nat) : Option Context := tfind p.engine.contexts c

def Part.setZone (p : Part) (z : Nat) (f : Zone → Zone) : Part :=
  { p with zone.zones := modifyAt p.zone.zones z f }
def Part.setPort (p : Part) (i : Nat) (f : Port → Port) : Part :=
  { p with port.ports := modifyAt p.port.ports i f }
def Part.setList (p : Part) (l : Nat) (d : DueList) : Part :=
  { p with tally.lists := tset p.tally.lists l d {} }
def Part.setRoot (p : Part) (c : Nat) (e : RootEntry) : Part :=
  { p with engine.roots := tset p.engine.roots c e {} }
def Part.setSlot (p : Part) (s : Nat) (st : SlotState) : Part :=
  { p with engine.slots := tset p.engine.slots s st .free }
def Part.setBag (p : Part) (b : Nat) (r : BagRecord) : Part :=
  { p with engine.bags := tset p.engine.bags b r .free }
def Part.setCtx (p : Part) (c : Nat) (x : Context) : Part :=
  { p with engine.contexts := tput p.engine.contexts c x }
def Part.dropCtx (p : Part) (c : Nat) : Part :=
  { p with engine.contexts := tdel p.engine.contexts c }
/-- Changes a context in use; a context that is free stays free. -/
def Part.updCtx (p : Part) (c : Nat) (f : Context → Context) : Part :=
  match p.ctx? c with
  | none => p
  | some x => p.setCtx c (f x)

/-- The visible value of a list's meter (R3). -/
def Part.meterOf (p : Part) (l : Nat) : Nat := (p.zoneAt (l / 8)).meters.getD (l % 8) 0

/-- The current wall minute where a rule names it as set; while it is unset, a free value (log 11). -/
def Part.minuteNow (p : Part) : Nat := p.zone.wallMinute.getD (Config.unstatedMinute p.free)

/-- What expired-at takes: the wall minute, or the last-advance minute while it is unset (R34). -/
def Part.expiryMinute (p : Part) : Nat :=
  p.zone.wallMinute.getD (p.zone.lastAdvance.getD (Config.unstatedMinute p.free))

/-- The part takes steps: it has its supply and the reset line is not applied (R202). -/
def Part.alive (p : Part) : Bool := p.power && !p.resetLine

/-- The zones are served: the tick performs its zone work (R1). -/
def Mode.serving : Mode → Bool
  | .running | .readOnly => true
  | .unformatted | .rebuilding _ | .awaitTime => false

/-! ### Sending (09) -/

/-- Begins an answer turn: the request-overrun flag goes into the first frame and is cleared (R180, R181). -/
def Port.sendAnswer (q : Port) (a : Answer) (rest : List Answer) : Port :=
  { q with answers := rest, turn := some ⟨.answer, answerFrames a q.requestOverrun⟩, lastTurn := .answer,
           requestOverrun := false }

/-- Begins a notice turn (R180, R181). -/
def Port.sendNotice (q : Port) (n : Notice) (rest : List Notice) : Port :=
  { q with notices := rest, turn := some ⟨.notice, [noticeFrame n q.noticeOverrun]⟩, lastTurn := .notice,
           noticeOverrun := false }

/-- An idle transmitter takes its next turn: from the kind it did not take last when both wait (R180). -/
def Port.beginTurn (q : Port) : Port :=
  match q.turn with
  | some _ => q
  | none =>
    match q.answers, q.notices with
    | [], [] => q
    | a :: as, [] => q.sendAnswer a as
    | [], n :: ns => q.sendNotice n ns
    | a :: as, n :: ns => if q.lastTurn = .answer then q.sendNotice n ns else q.sendAnswer a as

/-- What giving a notice on a port does (R182). -/
def Port.takeNotice (q : Port) (kind : NoticeKind) (body : Body) : Port :=
  if !q.settings.enabled then q
  else
    let number := (q.noticeNumber + 1) % 256
    if Config.noticeQueueSize ≤ q.notices.length then { q with noticeNumber := number, noticeOverrun := true }
    else ({ q with noticeNumber := number, notices := q.notices ++ [(⟨kind, number, body⟩ : Notice)] }).beginTurn

/-- Gives a notice on a port (R182); the body begins with the holder-copy mark (R183). -/
def Part.giveOn (p : Part) (i : Nat) (kind : NoticeKind) (holderCopy : Bool) (body : Body) : Part :=
  p.setPort i fun q => q.takeNotice kind (fFlag holderCopy :: body)

/-- The port the routing table names for a kind (R183). -/
def Part.routeOf (p : Part) (kind : NoticeKind) : Option Nat :=
  match kind.routeIndex with
  | none => none
  | some i => p.port.routing.getD i none

/-- Gives a notice of a routed kind, or drops it when its entry is NONE (R183). -/
def Part.giveRouted (p : Part) (kind : NoticeKind) (body : Body) : Part :=
  match p.routeOf kind with
  | none => p
  | some i => p.giveOn i kind false body

/-- Gives a MODE_CHANGE notice (R131). Its wall minute is an optional field, absent while it is unset, as R131 says of
RECORD_FAULT and leaves unsaid of MODE_CHANGE (DESIGN CHOICE, log 65). -/
def Part.giveModeChange (p : Part) (left entered : Mode) (cause : ModeCause) : Part :=
  p.giveRouted .modeChange
    ([fNum 1 left.code, fNum 1 entered.code, fNum 1 cause.code] ++ fOptMinute p.zone.wallMinute)

/-- Queues a composed answer: its request ceases to be outstanding, its context becomes free, and the answer of a
RESTART or FORMAT begins its start (R176, R179, R208, R209). -/
def Part.queueAnswer (p : Part) (i : Nat) (a : Answer) (ctx : Option Nat) : Part :=
  let p := p.setPort i fun q =>
    ({ q with answers := q.answers ++ [a], outstanding := q.outstanding - 1 }).beginTurn
  let p := match ctx with
    | none => p
    | some c => p.dropCtx c
  match a.starts with
  | none => p
  | some k => { p with engine.startOwed := some k }

/-- A composed answer takes a free entry of its port's answer queue, or waits behind those composed earlier (R179). -/
def Part.composeAnswer (p : Part) (i : Nat) (a : Answer) (ctx : Option Nat) : Part :=
  let q := p.portAt i
  if q.waitingAnswers = [] ∧ q.answers.length < Config.answerQueueSize then p.queueAnswer i a ctx
  else p.setPort i fun q => { q with waitingAnswers := q.waitingAnswers ++ [(⟨a, ctx⟩ : WaitingAnswer)] }

/-! ### The record-memory port (06, R128) -/

/-- The record of a zone as a zone record write carries it when it is made (R23). -/
def Part.zoneRecord (p : Part) (z : Nat) : ZoneRecord :=
  let zn := p.zoneAt z
  { meters := zn.meters, dry := zn.dry, bake := zn.bake, tripLatch := zn.tripLatch
    remaining := match zn.bake with
      | .running t _ => match p.zone.timers.getD t none with
        | some tm => tm.remaining
        | none => 0
      | .idle | .completing _ _ => 0 }

/-- Zone work or a gap charge has begun and its advance is not yet among the writes. -/
def Part.advanceUnwritten (p : Part) : Bool :=
  match p.zone.advance with
  | some a => !a.issued
  | none => false

/-- The order in which the arbiter looks at the requesters after one was granted. -/
def Requester.after : Requester → List Requester
  | .path => [.tally, .zone, .path]
  | .tally => [.zone, .path, .tally]
  | .zone => [.path, .tally, .zone]

/-- The access a requester offers, if it has one waiting. The record path offers its oldest waiting read and the head
write by turns when both wait. The tally unit offers its writes; its reads in a rebuild take no turn (DESIGN CHOICE, log 90). A zone
record that arose during zone work waits for the advance (R23). -/
def Part.offerOf (p : Part) : Requester → Option Access
  | .path =>
    match p.path.waiting, p.path.queue with
    | [], [] => none
    | r :: _, [] => some (.read r)
    | [], _ :: _ => some .write
    | r :: _, _ :: _ => if p.path.lastOffered = .read then some .write else some (.read r)
  | .tally => if p.tally.writes = [] then none else some .tally
  | .zone =>
    match p.zone.writes with
    | [] => none
    | .advance area gap :: _ => some (.advance area gap)
    | .zone z (some r) :: _ => some (.zone z r)
    | .zone z none :: _ => if p.advanceUnwritten then none else some (.zone z (p.zoneRecord z))

/-- Grants an access to a requester. A granted read leaves the waiting reads; writes stay in their order until they
complete. -/
def Part.grant (p : Part) (r : Requester) (a : Access) : Part :=
  let p := { p with path.inFlight := some a, path.lastGranted := r }
  match a with
  | .read _ => { p with path.waiting := p.path.waiting.drop 1, path.lastOffered := .read }
  | .write => { p with path.lastOffered := .write }
  | .tally | .advance _ _ | .zone _ _ => p

def Part.grantFirst (p : Part) : List Requester → Part
  | [] => p
  | r :: rest =>
    match p.offerOf r with
    | some a => p.grant r a
    | none => p.grantFirst rest

/-- When the port is idle, the arbiter grants the first requester in cyclic order that has an access waiting. -/
def Part.arbitrate (p : Part) : Part :=
  match p.path.inFlight with
  | some _ => p
  | none => p.grantFirst p.path.lastGranted.after

/-- The access in flight ends and the arbiter grants the next. -/
def Part.endAccess (p : Part) : Part := ({ p with path.inFlight := none }).arbitrate

/-! ### Writes -/

def applySetting (s : Settings) : SettingWrite → Settings
  | .cls n e => { s with classes := modifyAt s.classes n fun _ => e }
  | .band n l => { s with bands := modifyAt s.bands n fun _ => l }
  | .weight b c w => { s with weights := modifyAt s.weights b fun row => modifyAt row c fun _ => w }
  | .zone z zs => { s with zones := modifyAt s.zones z fun _ => zs }
  | .port n ps => { s with ports := modifyAt s.ports n fun _ => ps }
  | .consignor c ports => { s with perms := tset s.perms c ports [1, 2, 3] }
  | .routing t => { s with routing := t }
  | .exempt n r => { s with exempt := modifyAt s.exempt n fun _ => r }

def Block.branches : Block → Table BranchEntry
  | .branch t => t
  | .leaf _ => []
def Block.leaves : Block → Table LeafEntry
  | .leaf t => t
  | .branch _ => []

/-- The record memory after a write of the write stream has been made whole (R127). -/
def RecordMemory.write (m : RecordMemory) : WriteBody → RecordMemory
  | .record s st => { m with records := tput m.records s st }
  | .bag b r => { m with bags := tset m.bags b r .free }
  | .branch b lot e =>
    let t := Block.branches (tget m.blocks b (.branch []))
    { m with blocks := tput m.blocks b (.branch (tset t lot e {})) }
  | .leaf b serial e =>
    let t := Block.leaves (tget m.blocks b (.leaf []))
    { m with blocks := tput m.blocks b (.leaf (tset t serial e .empty)) }
  | .block n c => { m with blocks := tput m.blocks n c }
  | .root c r => { m with roots := tset m.roots c r {} }
  | .setting w => { m with settings := applySetting m.settings w }

def WriteBody.isRecord : WriteBody → Bool
  | .record _ _ => true
  | .bag _ _ | .branch _ _ _ | .leaf _ _ _ | .block _ _ | .root _ _ | .setting _ => false

def WriteBody.recordSlot? : WriteBody → Option Nat
  | .record s _ => some s
  | .bag _ _ | .branch _ _ _ | .leaf _ _ _ | .block _ _ | .root _ _ | .setting _ => none

/-- The queue entry that a record write for a slot replaces (R125): the youngest write for the slot in the queue, when
it is not the head in flight and only record writes stand behind it in the stream. -/
def coalesceAt (slot : Nat) (headInFlight : Bool) (held : List QWrite) : List QWrite → Option Nat
  | [] => none
  | w :: rest =>
    match coalesceAt slot false held rest with
    | some i => some (i + 1)
    | none =>
      if w.body.recordSlot? = some slot ∧ !headInFlight
          ∧ (rest ++ held).all (fun v => v.body.isRecord && v.body.recordSlot? != some slot) then some 0
      else none

/-- A write joins the write stream (R125): it coalesces, takes a queue entry, or is held. -/
def Part.pushWrite (p : Part) (ctx : Option Nat) (b : WriteBody) : Part :=
  let coalesced := match b with
    | .record s _ => coalesceAt s (p.path.inFlight == some Access.write) p.path.held p.path.queue
    | .bag _ _ | .branch _ _ _ | .leaf _ _ _ | .block _ _ | .root _ _ | .setting _ => none
  match coalesced with
  | some i => { p with path.queue := modifyAt p.path.queue i fun w => { w with body := b } }
  | none =>
    if p.path.queue.length < Config.writeQueueSize ∧ p.path.held = [] then
      ({ p with path.queue := p.path.queue ++ [(⟨ctx, b⟩ : QWrite)] }).arbitrate
    else { p with path.held := p.path.held ++ [(⟨ctx, b⟩ : QWrite)] }

/-- A context has a held write (R125, R143). -/
def Part.hasHeld (p : Part) (c : Nat) : Bool := p.path.held.any fun w => w.ctx == some c

/-- A tally's change: the working copy is changed and the whole tally is given to be written (R58). -/
def Part.setTally (p : Part) (n : Nat) (t : Tally) (cmd : Option Nat) : Part :=
  ({ p with tally.table := tset p.tally.table n t .free, tally.writes := p.tally.writes ++ [(⟨n, t, cmd⟩ : TallyWrite)] }).arbitrate

/-- A zone's record is given to be written (R23). -/
def Part.pushZoneWrite (p : Part) (z : Nat) : Part :=
  ({ p with zone.writes := p.zone.writes ++ [ZoneWrite.zone z none] }).arbitrate

/-- The contents of a meter-area write are settled. -/
def ZoneWrite.settled : ZoneWrite → Bool
  | .zone _ none => false
  | .zone _ (some _) | .advance _ _ => true

/-- Zone work begins: the zone records that wait take the contents they have before it (R23, log 31). -/
def Part.fixZoneWrites (p : Part) : Part :=
  { p with zone.writes := p.zone.writes.map fun w => match w with
      | .zone z none => .zone z (some (p.zoneRecord z))
      | .zone z (some r) => .zone z (some r)
      | .advance area gap => .advance area gap }

/-- An advance is given to be written: behind the writes that waited when its zone work began, before the zone records
that have arisen since (R21, R23). -/
def Part.pushAdvance (p : Part) (area : MeterArea) (gap : Bool) : Part :=
  ({ p with zone.writes := p.zone.writes.takeWhile ZoneWrite.settled
      ++ ZoneWrite.advance area gap :: p.zone.writes.dropWhile ZoneWrite.settled }).arbitrate

/-! ### Reads (R126) -/

/-- What a write of the stream answers to a read of a target. -/
def WriteBody.answers (b : WriteBody) (t : ReadTarget) : Option ReadValue :=
  match b, t with
  | .record s st, .record s' => if s = s' then some (.record (some st.record) true) else none
  | .branch n lot e, .branch n' lot' => if n = n' ∧ lot = lot' then some (.branch e) else none
  | .leaf n ser e, .leaf n' ser' => if n = n' ∧ ser = ser' then some (.leaf e) else none
  | .block n c, .branch n' lot => if n = n' then some (.branch (tget (Block.branches c) lot {})) else none
  | .block n c, .leaf n' ser => if n = n' then some (.leaf (tget (Block.leaves c) ser .empty)) else none
  | _, _ => none

/-- The youngest write of a target in the stream, queued, in flight or held. -/
def streamValue (stream : List QWrite) (t : ReadTarget) : Option ReadValue :=
  stream.reverse.findSome? fun w => w.body.answers t

/-- What the record memory holds at a target. -/
def RecordMemory.value (m : RecordMemory) : ReadTarget → ReadValue
  | .branch b lot => .branch (tget (Block.branches (tget m.blocks b (.branch []))) lot {})
  | .leaf b serial => .leaf (tget (Block.leaves (tget m.blocks b (.leaf []))) serial .empty)
  | .record s =>
    match tfind m.records s with
    | some st => .record (some st.record) (st.sound s)
    | none => .record none false

def Part.stream (p : Part) : List QWrite := p.path.queue ++ p.path.held

/-- The latest change made to a table entry, whether or not its write has reached the memory (R99). -/
def Part.branchNow (p : Part) (block lot : Nat) : BranchEntry :=
  match (streamValue p.stream (.branch block lot)).getD (p.mem.value (.branch block lot)) with
  | .branch e => e
  | .leaf _ | .record _ _ => {}

def Part.leafNow (p : Part) (block serial : Nat) : LeafEntry :=
  match (streamValue p.stream (.leaf block serial)).getD (p.mem.value (.leaf block serial)) with
  | .leaf e => e
  | .branch _ | .record _ _ => .empty

/-- A read is issued: forwarded from the write stream, or left waiting for the port (R126). -/
def Part.issueRead (p : Part) (client : ReadClient) (t : ReadTarget) : Part :=
  match streamValue p.stream t with
  | some v => { p with path.returned := p.path.returned ++ [(⟨⟨client, t, true⟩, v⟩ : Returned)] }
  | none => ({ p with path.waiting := p.path.waiting ++ [(⟨client, t, true⟩ : Read)] }).arbitrate

/-- The return of a client's read, if one is due: a forwarded read first, or the access in flight, which then ends. A
read abandoned after its grant returns no value. -/
def Part.takeReturn (p : Part) (client : ReadClient) : Option (Option ReadValue × Part) :=
  match p.path.returned.find? (fun r => r.read.client == client) with
  | some r => some (some r.value, { p with path.returned := p.path.returned.erase r })
  | none =>
    match p.path.inFlight with
    | some (.read r) =>
      if r.client = client then
        some (if r.live then some (p.mem.value r.target) else none, p.endAccess)
      else none
    | some .write | some .tally | some (.advance _ _) | some (.zone _ _) | none => none

/-- The block a read target lies in. -/
def ReadTarget.block? : ReadTarget → Option Nat
  | .branch b _ => some b
  | .leaf b _ => some b
  | .record _ => none

/-! ### Opcode-independent answers of contexts (07) -/

/-- The answer frame of a context (R143, R157): request code, tag, status and body. -/
def Context.answerWith (x : Context) (r : Reply) : Answer :=
  { code := requestCode x.request, tag := x.tag, body := fNum 1 r.status.code :: r.body
    starts := match x.request, r.status with
      | .restart, .ok => some .restart
      | .format, .ok => some .format
      | _, _ => none }

end Sys2Proof.Machine
end

