-- ==== Sys2Proof/Machine/RecordPath.lean ====
section
/-! DEFINITION. The record path (06): probes of the record cache, the miss file, the steps of a directory walk (R103 to
R105), fills, removals, record faults. -/

namespace Sys2Proof.Machine

/-! ### Contexts as the record path sees them -/

/-- A key of a context takes a resolution, wherever the context names it. -/
def Part.resolveKey (p : Part) (c : Nat) (k : Key) (r : Resolution) : Part :=
  p.updCtx c fun x => { x with keys := x.keys.map fun e => if e.key = k then { e with res := r } else e }

/-- A context becomes READY on a cache entry for a key whose leaf entry has the form, in the order in which this happens
(R119, R123). -/
def Part.readyOn (p : Part) (c : Nat) (k : Key) (index slot : Nat) (form : KeyForm) : Part :=
  { p.resolveKey c k (.entry index slot p.engine.readies form) with engine.readies := p.engine.readies + 1 }

/-- R135: active on a slot from performance to answer. -/
def Context.active (x : Context) : Bool :=
  x.stage == .performed || x.stage == .awaitingTally || x.stage == .awaitingWrite

def Context.activeOn (x : Context) (slot : Nat) : Bool := x.active && x.slots.contains slot

/-- Some context other than `c` is active on the slot. -/
def Part.slotActiveBut (p : Part) (c slot : Nat) : Bool :=
  p.engine.contexts.any fun e => e.1 != c && e.2.activeOn slot

def Part.slotActive (p : Part) (slot : Nat) : Bool := p.engine.contexts.any fun e => e.2.activeOn slot

/-! ### The cache (R116, R117) -/

/-- The set of a key: the low 6 bits of its serial digit. -/
def cacheSet (k : Key) : Nat := k.serial.toNat % 64

/-- The valid entry that holds a primary key. -/
def Part.cacheFind (p : Part) (k : Key) : Option (Nat × CacheEntry) :=
  p.path.cache.find? fun e => e.1 / 4 == cacheSet k && e.2.record.primary == k

/-- The valid entry that names a slot (at most one, R116). -/
def Part.cacheOfSlot (p : Part) (slot : Nat) : Option (Nat × CacheEntry) :=
  p.path.cache.find? fun e => e.2.slot == slot

/-- The key has the flush's consignor, or its consignor and lot (R114, R133). -/
def Flush.hits (f : Flush) (k : Key) : Bool :=
  k.consignor == f.consignor && (match f.lot with
    | none => true
    | some l => k.lot == l)

/-- The entry a probe of the key hits; none while a flush in flight has the key's pattern (R117). -/
def Part.probeHit (p : Part) (k : Key) : Option (Nat × CacheEntry) :=
  match p.path.flush with
  | some f => if f.hits k then none else p.cacheFind k
  | none => p.cacheFind k

/-! ### Slots on their way to the free list (R101, R154) -/

/-- A miss file entry names the slot (R122). -/
def Part.slotNamed (p : Part) (slot : Nat) : Bool := p.path.missFile.any fun e => e.2.slot == some slot

/-- A RETIRING slot whose tally command has completed OK and that no miss file entry names becomes FREE at the tail of
the slot free list. -/
def Part.returnSlot (p : Part) (slot : Nat) : Part :=
  if p.slotAt slot = .retiring ∧ p.engine.retired.contains slot ∧ !p.slotNamed slot then
    let p := p.setSlot slot .free
    { p with engine.slotFree := p.engine.slotFree.push slot, engine.retired := p.engine.retired.erase slot }
  else p

/-! ### Walks (R121 to R123) -/

def Part.setWalk (p : Part) (e : Nat) (w : Walk) : Part := { p with path.missFile := tput p.path.missFile e w }

/-- The keys of a context that are in MISS_WAIT. -/
def Context.waitingKeys (x : Context) : List Key :=
  ((x.keys.filter fun e => e.res == .missWait).map CtxKey.key).eraseDups

/-- The probes of the contexts in MISS_WAIT, oldest context first, the keys of one in the order of its request. -/
def Part.waitingProbes (p : Part) : List (Nat × Key) :=
  p.path.missWait.flatMap fun c => match p.ctx? c with
    | some x => x.waitingKeys.map fun k => (c, k)
    | none => []

/-- A context none of whose keys is in MISS_WAIT leaves the MISS_WAIT order; another keeps its place (R121, R123). -/
def Part.leaveMissWait (p : Part) (c : Nat) : Part :=
  match p.ctx? c with
  | some x => if x.waitingKeys = [] then { p with path.missWait := p.path.missWait.erase c } else p
  | none => { p with path.missWait := p.path.missWait.erase c }

/-- The miss file entry becomes free; a RETIRING slot it named is returned when R101 allows; the contexts in MISS_WAIT
are to probe again, oldest first (R123, steps 2 and 3). The probes belong to the act: they are made where the act goes on
(`makeProbes`), and as the first urgent step, MISS_WAIT_PROBE, where the act ends with the walk (log 59). -/
def Part.freeWalk (p : Part) (e : Nat) (w : Walk) : Part :=
  let p := { p with path.missFile := tdel p.path.missFile e }
  let p := match w.slot with
    | some s => p.returnSlot s
    | none => p
  { p with path.owedProbes := p.waitingProbes }

/-- A walk ends in a failure: every parked context is given the outcome in the order they parked (R104, R123). -/
def Part.walkFail (p : Part) (e : Nat) (w : Walk) (outcome : Resolution) : Part :=
  (w.parked.foldl (fun q c => q.resolveKey c w.key outcome) p).freeWalk e w

/-- Step 1 of a walk (R103): the root entry; then the branch entry is asked for. -/
def Part.walkBegin (p : Part) (e : Nat) (w : Walk) : Part :=
  let root := p.rootAt w.key.consignor.toNat
  let w := { w with stage := .root, slot := none, conHold := root.hold, lotHold := none, record := none
                    form := .primary }
  match root.branch with
  | none => (p.setWalk e w).walkFail e w .notFound
  | some b => (p.setWalk e { w with stage := .branch }).issueRead (.walk e) (.branch b w.key.lot.toNat)

/-- A walk begins again from the root entry; its slot field becomes absent (R122). -/
def Part.walkRestart (p : Part) (e : Nat) (w : Walk) (epoch : Nat) : Part :=
  let p := p.walkBegin e { w with epoch := epoch, slot := none }
  match w.slot with
  | some s => p.returnSlot s
  | none => p

/-- The lowest-numbered free entry of the miss file. -/
def Part.freeEntry (p : Part) : Option Nat :=
  (List.range Config.missFileSize).find? fun e => (tfind p.path.missFile e).isNone

/-- A context whose probe misses parks, takes a free entry, or waits (R121). -/
def Part.miss (p : Part) (c : Nat) (k : Key) : Part :=
  match p.path.missFile.find? (fun e => e.2.key == k) with
  | some (e, w) =>
    ((p.setWalk e { w with parked := if w.parked.contains c then w.parked else w.parked ++ [c] }).resolveKey c k
      .fetching).leaveMissWait c
  | none =>
    match p.freeEntry with
    | some e =>
      ((p.resolveKey c k .fetching).leaveMissWait c).walkBegin e
        { key := k, stage := .root, slot := none, epoch := p.engine.epoch, parked := [c] }
    | none =>
      let p := p.resolveKey c k .missWait
      { p with path.missWait :=
          if p.path.missWait.contains c then p.path.missWait else p.path.missWait ++ [c] }

/-- One probe of the cache (R117): the replacement counter passes on, and the context becomes READY on a hit. A walk that
begins and ends in the probe owes the probes of its end. A hit reads no leaf entry: an entry is found by its primary key, whose leaf
entry is PRIMARY (R95; DEDUCED, log 82). -/
def Part.probeOnce (p : Part) (c : Nat) (k : Key) : Part :=
  let p := { p with path.counter := (p.path.counter + 1) % 4 }
  match p.probeHit k with
  | some (i, e) =>
    (p.readyOn c k i e.slot .primary).leaveMissWait c
  | none => p.miss c k

/-- The probes owed at the end of a walk, the first of them first; a walk that begins and ends among them owes its own
instead of what is left (log 59). The fuel is more than one act can owe. -/
def Part.probesFrom : Nat → Part → Part
  | 0, p => p
  | n + 1, p =>
    match p.path.owedProbes with
    | [] => p
    | (c, k) :: rest => Part.probesFrom n (({ p with path.owedProbes := rest }).probeOnce c k)

/-- Step 3 of the end of a walk, made at once (R123). -/
def Part.makeProbes (p : Part) : Part := Part.probesFrom Config.urgentFuel p

/-- A probe in an act that goes on: with the probes of a walk that began and ended in it (R117, R123). -/
def Part.probe (p : Part) (c : Nat) (k : Key) : Part := (p.probeOnce c k).makeProbes

/-! ### Removal of cache entries (R119) -/

/-- The contexts READY on an entry and not yet performed, in the order in which they became READY. -/
def Part.readyContexts (p : Part) (index : Nat) : List (Nat × Key) :=
  let found : List (Nat × Nat × Key) := p.engine.contexts.flatMap fun e =>
    if e.2.stage = .resolving then
      (e.2.keys.filterMap fun k => match k.res with
        | .entry i _ r _ => if i = index then some (r, e.1, k.key) else none
        | .chained | .missWait | .fetching | .exempt _ _ | .notFound | .recordFault | .byTurn => none).eraseDups
    else []
  let sorted := found.foldl (fun acc x => acc.takeWhile (fun y => y.1 ≤ x.1) ++ x
    :: acc.dropWhile (fun y => y.1 ≤ x.1)) []
  sorted.map fun x => (x.2.1, x.2.2)

/-- An entry is removed: its valid flag is cleared and the contexts READY on it probe again, in the act (R119). -/
def Part.removeEntry (p : Part) (index : Nat) : Part :=
  let again := p.readyContexts index
  let p := { p with path.cache := tdel p.path.cache index }
  let p := again.foldl (fun q x => q.resolveKey x.1 x.2 .chained) p
  again.foldl (fun q x => q.probe x.1 x.2) p

/-- The valid entry naming a slot is removed, if there is one. -/
def Part.removeSlotEntry (p : Part) (slot : Nat) : Part :=
  match p.cacheOfSlot slot with
  | some (i, _) => p.removeEntry i
  | none => p

/-! ### Fills (R118) -/

/-- The way a fill takes in a set: the lowest invalid one, else the first unpinned from the counter on, else the
counter's. -/
def Part.fillIndex (p : Part) (set : Nat) : Nat :=
  match (List.range 4).find? (fun way => (tfind p.path.cache (set * 4 + way)).isNone) with
  | some way => set * 4 + way
  | none =>
    match (List.range 4).find? (fun i =>
        match tfind p.path.cache (set * 4 + (p.path.counter + i) % 4) with
        | some e => !e.pinned
        | none => true) with
    | some i => set * 4 + (p.path.counter + i) % 4
    | none => set * 4 + p.path.counter % 4

/-- The walk's parked contexts become READY on the entry that stands, in the order they parked; the miss file entry
becomes free (R123). -/
def Part.walkFilled (p : Part) (e : Nat) (w : Walk) (index slot : Nat) : Part :=
  (w.parked.foldl (fun q c => q.readyOn c w.key index slot w.form) p).freeWalk e w

/-- A pattern flush in flight has still to remove the entry (R133): its primary key matches and its fill epoch is older. -/
def Part.outdated (p : Part) (e : CacheEntry) : Bool :=
  match p.path.flush with
  | some f => f.hits e.record.primary && e.fillEpoch != f.epoch
  | none => false

/-- The entry of a primary key that a fill keeps (R118): one that stands, unless a flush in flight is to remove it. -/
def Part.keptEntry (p : Part) (k : Key) : Option (Nat × CacheEntry) :=
  match p.cacheFind k with
  | some (i, e) => if p.outdated e then none else some (i, e)
  | none => none

/-- The entry of a primary key that a flush in flight is to remove is removed (R119), before a fill of the key. -/
def Part.dropOutdated (p : Part) (k : Key) : Part :=
  match p.cacheFind k with
  | some (i, e) => if p.outdated e then p.removeEntry i else p
  | none => p

/-- A fill (R118): an entry of the record's primary key that already stands is kept; otherwise a way is taken. A walk under
the new epoch of a flush in flight is installed in place of an entry the flush has still to remove (R133). Contexts that
park on the walk while an entry is removed are served with the others. -/
def Part.fill (p : Part) (e : Nat) (w : Walk) (slot : Nat) (r : CarrierRecord) : Part :=
  match p.keptEntry r.primary with
  | some (i, _) => p.walkFilled e w i slot
  | none =>
    let p := p.dropOutdated r.primary
    let i := p.fillIndex (cacheSet r.primary)
    let p := p.removeEntry i
    let w := { w with parked := match tfind p.path.missFile e with
      | some v => v.parked
      | none => w.parked }
    let entry : CacheEntry :=
      { slot := slot, record := r, conHold := w.conHold, lotHold := w.lotHold, pinned := r.checkout.isSome
        fillEpoch := p.engine.epoch }
    ({ p with path.cache := tput p.path.cache i entry }).walkFilled e w i slot

/-! ### Record faults (R129 to R131) -/

/-- The slot becomes FAULTED and the fault is listed, or counted unlisted, which passes RUNNING to READ_ONLY (R129 steps
1 and 2, R130). -/
def Part.enterFault (p : Part) (slot : Nat) (k : Key) : Part :=
  let p := p.setSlot slot .faulted
  if p.engine.faults.length < Config.faultListSize then
    { p with engine.faults := p.engine.faults ++ [(⟨slot, k, p.zone.wallMinute⟩ : FaultEntry)] }
  else
    { p with engine.unlisted := p.engine.unlisted + 1
             engine.mode := if p.engine.mode = .running then .readOnly else p.engine.mode }

/-- The RECORD_FAULT notice (R131): the position at which the fault was listed, or the mark UNLISTED, as a field of two
forms. -/
def Part.giveFaultNotice (p : Part) (slot : Nat) (k : Key) (position : Option Nat) : Part :=
  p.giveRouted .recordFault
    ([fNum 2 slot, fKey k] ++ (match position with
        | some n => [fNum 1 0, fNum 1 n]
        | none => [fNum 1 1])
      ++ [fNum 2 p.engine.faults.length, fNum 4 p.engine.unlisted] ++ fOptMinute p.zone.wallMinute)

/-- A record fault declared on a LIVE slot (R129): the slot is withdrawn from service, the walk that found it ends, the
notices are given, and the cache entry of the slot is removed, at once unless a performed context is active on it. -/
def Part.declareFault (p : Part) (slot : Nat) (k : Key) (endWalk : Part → Part) : Part :=
  let before := p
  let p := (endWalk (p.enterFault slot k)).makeProbes
  let listed := before.engine.faults.length < Config.faultListSize
  let p := p.giveFaultNotice slot k (if listed then some before.engine.faults.length else none)
  let p := if !listed && before.engine.mode == .running
    then p.giveModeChange .running .readOnly .faultListFull else p
  if p.slotActive slot then p else p.removeSlotEntry slot

/-! ### The reads of a walk (R103 to R105, R122) -/

/-- The record of a slot as the newest write made for it has it (R116, R124), given the copy a read returned: the youngest of
the write stream, else that of the memory; the copy where neither holds a sound record. -/
def Part.newestRecord (p : Part) (slot : Nat) (r : CarrierRecord) : CarrierRecord :=
  match (streamValue p.stream (.record slot)).getD (p.mem.value (.record slot)) with
  | .record (some r') true => r'
  | .record _ _ | .branch _ | .leaf _ => r

/-- Step 6 (R104, R122): a walk of an older epoch begins again; otherwise the slot state decides. The walk has gone on with the
record as it was read (R126); what is installed equals the newest write made for the slot, and is pinned by it, also where a
change has overtaken the read (R116, R120; DEDUCED, log 55). -/
def Part.walkFill (p : Part) (e : Nat) (w : Walk) : Part :=
  if w.epoch ≠ p.engine.epoch then p.walkRestart e w p.engine.epoch
  else
    match w.slot, w.record with
    | some s, some r =>
      match p.slotAt s with
      | .live => p.fill e w s (p.newestRecord s r)
      | .faulted => p.walkFail e w .recordFault
      | .retiring | .withdrawn | .free => p.walkFail e w .notFound
    | _, _ => p.walkFail e w .notFound

/-- Step 5 has returned the record (R105): the holds of the primary key's consignor and lot are read when they differ
from the lookup key's, and then the fill is reached. -/
def Part.walkHolds (p : Part) (e : Nat) (w : Walk) (r : CarrierRecord) : Part :=
  let w := { w with record := some r }
  if r.primary.consignor = w.key.consignor ∧ r.primary.lot = w.key.lot then
    (p.setWalk e { w with stage := .fill }).walkFill e { w with stage := .fill }
  else
    let root := p.rootAt r.primary.consignor.toNat
    let w := { w with conHold := root.hold, lotHold := none }
    match root.branch with
    | none => (p.setWalk e { w with stage := .fill }).walkFill e { w with stage := .fill }
    | some b =>
      (p.setWalk e { w with stage := .holds }).issueRead (.walk e) (.branch b r.primary.lot.toNat)

/-- Step 4 (R104): the slot state of the slot the leaf entry names. A WITHDRAWN slot owes the removal of the leaf entry,
which asks for the directory turn on its own (R141). The table of R104 has no line for a FREE slot, which a stale leaf read
may name: the walk ends NOT_FOUND (DESIGN CHOICE, log 52). -/
def Part.walkSlot (p : Part) (e : Nat) (w : Walk) (s : Nat) : Part :=
  let w := { w with stage := .slot, slot := some s }
  let p := p.setWalk e w
  match p.slotAt s with
  | .live => (p.setWalk e { w with stage := .record }).issueRead (.walk e) (.record s)
  | .faulted => p.walkFail e w .recordFault
  | .withdrawn =>
    let p := p.walkFail e w .notFound
    { p with engine.turn := p.engine.turn ++ [({ owner := .withdrawn w.key s } : Update)] }
  | .retiring | .free => p.walkFail e w .notFound

/-- Step 5 (R129): a record that fails its check is a fault on a LIVE slot; on another slot the walk ends with the
outcome of the slot's state. -/
def Part.walkRecord (p : Part) (e : Nat) (w : Walk) (s : Nat) (r : Option CarrierRecord) (checked : Bool) : Part :=
  match r, checked with
  | some r, true => p.walkHolds e w r
  | _, _ =>
    match p.slotAt s with
    | .live => p.declareFault s w.key fun q => q.walkFail e w .recordFault
    | .faulted => p.walkFail e w .recordFault
    | .retiring | .withdrawn | .free => p.walkFail e w .notFound

/-- A read of a walk returns (R122). -/
def Part.walkRead (p : Part) (e : Nat) (w : Walk) (v : ReadValue) : Part :=
  match w.stage, v with
  | .branch, .branch b =>
    match b.leaf with
    | none => p.walkFail e w .notFound
    | some lb =>
      (p.setWalk e { w with stage := .leaf, lotHold := b.hold }).issueRead (.walk e) (.leaf lb w.key.serial.toNat)
  | .leaf, .leaf l =>
    match l with
    | .empty => p.walkFail e w .notFound
    | .primary s => p.walkSlot e { w with form := .primary } s
    | .aliasOf s => p.walkSlot e { w with form := .aliased } s
  | .record, .record r checked =>
    match w.slot with
    | some s => p.walkRecord e w s r checked
    | none => p.walkFail e w .notFound
  | .holds, .branch b =>
    let w := { w with lotHold := b.hold, stage := .fill }
    (p.setWalk e w).walkFill e w
  | _, _ => p

/-! ### The write at the head of the queue (R127) -/

/-- The head write completes: its target holds it whole, it leaves the queue, and the arbiter grants the next access. -/
def Part.completeWrite (p : Part) : Part :=
  match p.path.queue with
  | [] => p
  | w :: rest => ({ p with mem := p.mem.write w.body, path.queue := rest }).endAccess

end Sys2Proof.Machine
end

