-- ==== Sys2Proof/Machine/Contexts.lean ====
section
/-! DEFINITION. Request contexts (07): keys and chains, the resolution gate, when a context is performed, the issue of tally
commands, and the answering of a context. -/

namespace Sys2Proof.Machine

/-! ### Keys, bags and slots a context chains on (R137) -/

/-- The keys a request names (R137). -/
def requestKeys : Request → List Key
  | .enroll k .. | .lookup k | .verify k .. | .move k .. | .seal k | .retire k .. | .checkout k .. | .release k .. => [k]
  | .openKeys _ ks => ks
  | .relabel a b _ => [a, b]
  | .hold (.carrier k) _ | .unhold (.carrier k) _ => [k]
  | .hold .. | .unhold .. | .moveGroup .. | .listBag .. | .listDue .. | .listCheckouts .. | .climate .. | .trip ..
  | .clearTrip .. | .bakeStart .. | .bakeStop .. | .status | .classSet .. | .bandSet .. | .weightSet .. | .zoneSet ..
  | .portSet .. | .consignorSet .. | .routeSet .. | .exemptSet .. | .timeSet .. | .forceRetire .. | .faultClear
  | .releaseAll .. | .restart | .format => []

/-- The bag a request chains on (R137). -/
def requestBag : Request → Option Nat
  | .moveGroup b _ | .listBag b | .hold (.bag b) _ | .unhold (.bag b) _ => some b
  | _ => none

/-- The slot a request chains on at its taking (R137). -/
def requestSlot : Request → Option Nat
  | .forceRetire _ s => some s
  | _ => none

def Context.unanswered (x : Context) : Bool := x.stage != .answered

/-- The slots its keys have resolved to. -/
def Context.resolvedSlots (x : Context) : List Nat :=
  (x.keys.filterMap fun k => match k.res with
    | .entry _ s _ _ => some s
    | .chained | .missWait | .fetching | .exempt _ _ | .notFound | .recordFault | .byTurn => none).eraseDups

/-- The slots in whose slot chains the context stands (R137). -/
def Context.chainSlots (x : Context) : List Nat :=
  if x.active then x.slots
  else match requestSlot x.request with
    | some s => [s]
    | none => x.resolvedSlots

def Resolution.resolved : Resolution → Bool
  | .exempt _ _ | .entry _ _ _ _ | .notFound | .recordFault | .byTurn => true
  | .chained | .missWait | .fetching => false

def Resolution.isExempt : Resolution → Bool
  | .exempt _ _ => true
  | .chained | .missWait | .fetching | .entry _ _ _ _ | .notFound | .recordFault | .byTurn => false

/-- READY: every key resolved and not yet performed (R138). -/
def Context.ready (x : Context) : Bool := x.stage == .resolving && x.keys.all fun k => k.res.resolved

/-- The stage by the names of R138: that of the least advanced key until all have resolved. -/
def Context.stageName (x : Context) : StageName :=
  match x.stage with
  | .chained => .chained
  | .resolving =>
    if x.keys.any (fun k => k.res == .chained) then .probing
    else if x.keys.any (fun k => k.res == .missWait) then .missWait
    else if x.keys.any (fun k => k.res == .fetching) then .fetching
    else .ready
  | .performed => .performed
  | .awaitingTally => .awaitingTally
  | .awaitingWrite => .awaitingWrite
  | .answered => .answered

/-- Inserts contexts in order of arrival, which is the order of taking (R136). -/
def byArrival (cs : List (Nat × Context)) : List (Nat × Context) :=
  cs.foldl (fun acc x => acc.takeWhile (fun y => y.2.arrival ≤ x.2.arrival) ++ x
    :: acc.dropWhile (fun y => y.2.arrival ≤ x.2.arrival)) []

/-! ### The resolution gate (R139) -/

/-- The request changes what a key resolves to. -/
def changesKey (q : Request) (k : Key) : Bool :=
  match q with
  | .enroll k' .. => k' == k
  | .retire k' .. => k' == k
  | .relabel _ new _ => new == k
  | _ => false

/-- The gate is closed while a context ahead in one of its key chains changes what the key resolves to. -/
def Part.gateOpen (p : Part) (c : Nat) (x : Context) : Bool :=
  !p.engine.contexts.any fun e => e.1 != c && e.2.unanswered && decide (e.2.arrival < x.arrival) &&
    (requestKeys x.request).any fun k => (requestKeys e.2.request).contains k && changesKey e.2.request k

/-- The key is the new key of a RELABEL, which is not probed (R139, R156). -/
def isNewKey (q : Request) (k : Key) : Bool :=
  match q with
  | .relabel old new _ => new == k && old != k
  | _ => false

/-- One key of a context that leaves CHAINED: the exempt check (R107), then the probe. -/
def Part.startKey (p : Part) (c : Nat) (q : Request) (k : Key) : Part :=
  match exemptOutcome p.engine.exempt k with
  | some (barred, i) => p.resolveKey c k (.exempt barred i)
  | none => if isNewKey q k then p.resolveKey c k .byTurn else p.probe c k

/-- The members of a LIVE bag. -/
def BagRecord.members : BagRecord → List (Nat × Key)
  | .live ms _ _ => ms
  | .free | .closing _ _ => []

def BagRecord.hold : BagRecord → Option Nat
  | .live _ h _ => h
  | .closing h _ => h
  | .free => none

def BagRecord.isLive : BagRecord → Bool
  | .live _ _ _ => true
  | .free | .closing _ _ => false

/-- The context leaves CHAINED (R139). A MOVE_GROUP probes the primary key of every member as the list then stands. The keys
of one request are probed in the order in which it names them, which R139 leaves open (DESIGN CHOICE, log 57). -/
def Part.leaveChained (p : Part) (c : Nat) (x : Context) : Part :=
  match x.request with
  | .moveGroup b _ =>
    let keys := (p.bagAt b).members.map fun m => m.2
    let p := p.setCtx c { x with stage := .resolving, keys := keys.map fun k => ⟨k, .chained⟩ }
    keys.foldl (fun q k => q.probe c k) p
  | r =>
    let keys := (requestKeys r).eraseDups
    let p := p.setCtx c { x with stage := .resolving, keys := (requestKeys r).map fun k => ⟨k, .chained⟩ }
    keys.foldl (fun q k => q.startKey c r k) p

/-- Every gate that is open lets its context leave CHAINED (R139), in order of taking, which R139 leaves open (DESIGN CHOICE,
log 57). -/
def Part.openGates (p : Part) : Part :=
  (byArrival p.engine.contexts).foldl (fun q e =>
    if e.2.stage = .chained ∧ q.gateOpen e.1 e.2 then q.leaveChained e.1 e.2 else q) p

/-! ### When a context is performed (R140, R144) -/

/-- The slots no other context may be active on: those of its slot chains, and for a MOVE_GROUP the slot of every member on
the list as it stands, whatever the member's key has resolved to (R70, R140). -/
def Part.guardedSlots (p : Part) (x : Context) : List Nat :=
  match x.request with
  | .moveGroup b _ => x.chainSlots ++ (p.bagAt b).members.map fun m => m.1
  | _ => x.chainSlots

/-- Head of every key, bag and slot chain it belongs to, and no other context active on its slots. A MOVE_GROUP stays in its
chains until every key that it has probed is resolved, also the key of a member that has left the list since (DEDUCED, log 73). -/
def Part.headsChains (p : Part) (c : Nat) (x : Context) : Bool :=
  !p.engine.contexts.any fun e => e.1 != c && e.2.unanswered &&
    ((decide (e.2.arrival < x.arrival) &&
        ((requestKeys x.request).any (fun k => (requestKeys e.2.request).contains k)
          || (match requestBag x.request with
              | some b => requestBag e.2.request == some b
              | none => false)
          || x.chainSlots.any (fun s => e.2.chainSlots.contains s)))
      || (p.guardedSlots x).any (fun s => e.2.activeOn s))

/-- A value lies in its range, or is absent. -/
def inRange (most : Nat) : Option Nat → Bool
  | none => true
  | some v => v ≤ most

/-- A field of LIST_CHECKOUTS is out of range (R169). -/
def checkoutsOutOfRange (port station : Option Nat) (skip want : Nat) : Bool :=
  !inRange 3 port || !inRange 255 station || decide (2047 < skip ∨ want = 0 ∨ 32 < want)

/-- R167: the requests that need the checkout table. A LIST_CHECKOUTS with a field out of range does not come to it
(R169). -/
def needsTable : Request → Bool
  | .listCheckouts port station skip want => !checkoutsOutOfRange port station skip want
  | .checkout .. | .release .. | .releaseAll .. | .lookup .. | .verify .. | .openKeys .. | .move ..
  | .seal .. | .retire .. | .relabel .. | .moveGroup .. | .forceRetire .. => true
  | .enroll .. | .listBag .. | .listDue .. | .hold .. | .unhold .. | .climate .. | .trip .. | .clearTrip ..
  | .bakeStart .. | .bakeStop .. | .status | .classSet .. | .bandSet .. | .weightSet .. | .zoneSet .. | .portSet ..
  | .consignorSet .. | .routeSet .. | .exemptSet .. | .timeSet .. | .faultClear | .restart | .format => false

/-- The requests performed one at a time among themselves in taking order: CONSIGNOR and LOT holds (R112), and
EXEMPT_SETs (R187). -/
def serialGroup : Request → Option Nat
  | .hold (.consignor _) _ | .unhold (.consignor _) _ | .hold (.lot _ _) _ | .unhold (.lot _ _) _ => some 0
  | .exemptSet .. => some 1
  | _ => none

/-- The key whose directory entry an ENROLL or RELABEL would insert (R108). -/
def insertsKey : Request → Option Key
  | .enroll k .. => some k
  | .relabel _ new _ => some new
  | _ => none

/-- What else a READY context may have to wait for: a held checkout table (R144, R167), its serial group (R112, R187),
a RANGE_IN_USE check over its new key (R108), which no longer runs once the range is installed, though the answer of the EXEMPT_SET
may still wait for its write (DESIGN CHOICE, log 79). -/
def Part.mustWait (p : Part) (c : Nat) (x : Context) : Bool :=
  (match p.engine.releaseAll with
    | some r => needsTable x.request && r.ctx != c
    | none => false)
  || (match serialGroup x.request with
      | some g => p.engine.contexts.any fun e =>
          e.1 != c && e.2.unanswered && decide (e.2.arrival < x.arrival) && serialGroup e.2.request == some g
      | none => false)
  || (match p.engine.range, insertsKey x.request with
      | some r, some k => r.begun && r.proposed.coversLot k.consignor k.lot
      | _, _ => false)

/-- R140: the context is performed as soon as this holds. Nothing is performed while a start is about to begin. -/
def Part.performable (p : Part) (c : Nat) : Bool :=
  p.engine.startOwed.isNone &&
  match p.ctx? c with
  | none => false
  | some x => x.ready && p.headsChains c x && !p.mustWait c x

/-! ### Issue of tally commands (R142) -/

/-- A context performed earlier waits to issue a command. -/
def Part.olderWaits (p : Part) (c : Nat) (x : Context) : Bool :=
  p.engine.contexts.any fun e =>
    e.1 != c && e.2.active && e.2.toIssue != [] && decide (e.2.performSeq < x.performSeq)

/-- The context issues its next command, one per act, when the queue has a free entry. While the queue is full it keeps the stage
that it has: PERFORMED before its last command was issued, as R142 says, but AWAITING_TALLY where a completion has asked for a
further command since, of which R142 does not give the stage (DESIGN CHOICE, log 81). -/
def Part.issueNext (p : Part) (c : Nat) : Part :=
  match p.ctx? c with
  | none => p
  | some x =>
    match x.toIssue with
    | [] => p
    | op :: rest =>
      if Config.tallyQueueSize ≤ p.tally.queue.length then p
      else
        let cmd : TallyCmd := { id := p.tally.nextCmd, ctx := c, op := op }
        let p := { p with tally.queue := p.tally.queue ++ [cmd], tally.nextCmd := p.tally.nextCmd + 1 }
        p.setCtx c { x with toIssue := rest, outstanding := x.outstanding + 1
                            commands := x.commands ++ [({ id := cmd.id, op := op } : IssuedCmd)]
                            stage := if rest = [] then .awaitingTally else .performed }

/-- The context that is to issue next when an entry is free: the oldest by performance that waits. -/
def Part.nextIssuer (p : Part) : Option Nat :=
  ((p.engine.contexts.find? fun e : Nat × Context =>
    e.2.active && e.2.toIssue != [] && !p.olderWaits e.1 e.2).map (·.1))

/-- An entry of the tally command queue has become free. Where the queue had been full, the oldest context that waits for
it issues its next command in the act (R142, log 28). -/
def Part.entryFreed (p : Part) (wasFull : Bool) : Part :=
  if wasFull then
    match p.nextIssuer with
    | some c => p.issueNext c
    | none => p
  else p

/-! ### Answering (R143) -/

/-- The entries of FAULTED slots whose removal waited for the last active context are removed (R129). Where one answer ends the
activity on several of them, they go in the order in which the context holds its slots, which R129 leaves open, as R119 does that
in which the contexts READY on them probe again (DESIGN CHOICE, log 80). -/
def Part.dropFaulted (p : Part) (slots : List Nat) : Part :=
  slots.foldl (fun q s => if q.slotAt s = .faulted ∧ !q.slotActive s then q.removeSlotEntry s else q) p

/-- The context is answered: it leaves every chain, stops being active, gives up the checkout table, and its answer is
composed; the gates behind it open. Where the answer also removes the entries of FAULTED slots, it does so, with the probes that
follow, before the gates open, an order that no rule gives (DESIGN CHOICE, log 84). -/
def Part.answer (p : Part) (c : Nat) (r : Reply) : Part :=
  match p.ctx? c with
  | none => p
  | some x =>
    let slots := x.slots
    let p := p.setCtx c { x with stage := .answered, keys := [], slots := [], working := [], reply := some r }
    let p := match p.engine.releaseAll with
      | some ra => if ra.ctx = c then { p with engine.releaseAll := none } else p
      | none => p
    let p := p.composeAnswer x.port (x.answerWith r) (some c)
    (p.dropFaulted slots).openGates

/-- A pattern flush begun by the context is in flight (R133). -/
def Part.flushes (p : Part) (c : Nat) : Bool :=
  match p.path.flush with
  | some f => f.ctx == c
  | none => false

/-- The context is answered when its reply is known, every command it issued or is to issue has completed, none of its
writes is held and no flush of its is in flight; otherwise it waits (R125, R142, R143). -/
def Part.finish (p : Part) (c : Nat) : Part :=
  match p.ctx? c with
  | none => p
  | some x =>
    match x.reply with
    | none => p
    | some r =>
      if x.unanswered ∧ x.toIssue = [] ∧ x.outstanding = 0 then
        if p.hasHeld c || p.flushes c then p.setCtx c { x with stage := .awaitingWrite } else p.answer c r
      else p

/-- The reply of a context is set, and the context answered if nothing holds it. -/
def Part.reply (p : Part) (c : Nat) (s : Status) (body : Body := []) : Part :=
  (p.updCtx c fun x => { x with reply := some ⟨s, body⟩ }).finish c

/-- A check fails: the status of the first that does, and nothing is changed. -/
def Part.refuse (p : Part) (c : Nat) (s : Status) (body : Body := []) : Part := p.reply c s body

/-- The context asks for further tally commands and issues the first if it may (R142). -/
def Part.command (p : Part) (c : Nat) (ops : List TallyOp) : Part :=
  (p.updCtx c fun x => { x with toIssue := x.toIssue ++ ops }).issueNext c

/-! ### Record changes (R124) -/

/-- One change of a carrier record: the working copy, the valid cache entry of the slot with its pin, and a write of the
whole record with a fresh check word. -/
def Part.changeRecord (p : Part) (c : Option Nat) (slot : Nat) (r : CarrierRecord) : Part :=
  let p := match c with
    | some c => p.updCtx c fun x => { x with working := tput x.working slot r }
    | none => p
  let follow (e : Nat × CacheEntry) : Nat × CacheEntry :=
    if e.2.slot = slot then (e.1, { e.2 with record := r, pinned := r.checkout.isSome }) else e
  let p := { p with path.cache := p.path.cache.map follow }
  p.pushWrite c (.record slot ⟨r, checkWordOf slot r⟩)

/-- A bag record changes and is written (R74). -/
def Part.changeBag (p : Part) (c : Option Nat) (b : Nat) (r : BagRecord) : Part :=
  (p.setBag b r).pushWrite c (.bag b r)

/-! ### Beginning a performance (R140) -/

/-- The cache entry a key of the context is READY on. -/
def Part.entryOf (p : Part) (x : Context) (k : Key) : Option CacheEntry :=
  match x.keys.find? (fun e => e.key == k) with
  | some e =>
    match e.res with
    | .entry i _ _ _ => tfind p.path.cache i
    | .chained | .missWait | .fetching | .exempt _ _ | .notFound | .recordFault | .byTurn => none
  | none => none

/-- How a key of a context stands. A key that the context never probed, which only a member of a bag re-formed while a
MOVE_GROUP waited can be (R70), counts as NOT_FOUND (DESIGN CHOICE, log 50). -/
def Context.resolutionOf (x : Context) (k : Key) : Resolution :=
  match x.keys.find? (fun e => e.key == k) with
  | some e => e.res
  | none => .notFound

/-- R110: the effective hold of a cached carrier. -/
def Part.holdOf (p : Part) (e : CacheEntry) : Option (HoldLevel × Nat) :=
  effectiveHold e.conHold e.lotHold
    (match e.record.link with
      | some b => (p.bagAt b).hold
      | none => none)
    e.record.hold

/-- The checkout entry in use that names a slot, with its number (R159). -/
def Part.checkoutOf (p : Part) (slot : Nat) : Option (Nat × Checkout) :=
  p.engine.checkouts.find? fun (e : Nat × Checkout) => e.2.slot == slot

/-- R109: port 0 is permitted for every consignor. -/
def Part.permits (p : Part) (port : Nat) (consignor : BitVec 8) : Bool :=
  port == 0 || (p.rootAt consignor.toNat).ports.contains port

/-- R149: the holder's port, and the holder's station tag carried by the request. -/
def fromHolder (port : Nat) (station : Option Nat) (co : Checkout) : Bool :=
  co.port == port && station == some co.station

/-- The tally a record's tally link names (R64). -/
def accountTally (slot : Nat) (r : CarrierRecord) : Nat :=
  match r.link with
  | some b => Config.bagTallyBase + b
  | none => slot

/-- A key takes the outcome of an exempt range that covers it, whatever it had resolved to. -/
def exempted (ranges : List ExemptRange) (k : Key) (e : CtxKey) : CtxKey :=
  match exemptOutcome ranges k with
  | some (barred, i) => if e.key = k then { e with res := .exempt barred i } else e
  | none => e

/-- An ENROLL or RELABEL whose new key was unresolved when a RANGE_IN_USE check over it ended has its exempt check made
afresh at its performance (R108, log 42). -/
def Part.rechecked (p : Part) (x : Context) : Context :=
  match insertsKey x.request with
  | some k => if x.recheck then { x with keys := x.keys.map (exempted p.engine.exempt k), recheck := false } else x
  | none => x

/-- A context is performed: it becomes active on its slots and takes a working copy of each slot's record (R140). A
MOVE_GROUP reads the member list afresh (R70). -/
def Part.beginPerform (p : Part) (c : Nat) (x : Context) : Part × Context :=
  let x := p.rechecked x
  let x : Context := match x.request with
    | .moveGroup b _ =>
      let ms : List (Nat × Key) := (p.bagAt b).members
      { x with keys := ms.filterMap fun (m : Nat × Key) => x.keys.find? fun e => e.key == m.2 }
    | _ => x
  let slots := x.chainSlots
  let working := x.keys.foldl (fun w k => match p.entryOf x k.key with
    | some e => tput w e.slot e.record
    | none => w) ([] : Table CarrierRecord)
  let x : Context := { x with stage := .performed, slots := slots, working := working, performSeq := p.engine.performs }
  (({ p with engine.performs := p.engine.performs + 1 }).setCtx c x, x)

end Sys2Proof.Machine
end

