-- ==== Sys2Proof/Machine/Directory.lean ====
section
/-! DEFINITION. The directory (05): entry insertion and removal, abandoned reads, the directory turn, LOT-level hold reads
and the change of a hold with its pattern flush, the RANGE_IN_USE check. -/

namespace Sys2Proof.Machine

/-! ### The act of a CONSIGNOR or LOT hold change (R112, R114) -/

/-- The contexts READY on entries that a flush will remove return to PROBING and probe again (R114, step 4; R133). Those of one
entry go in the order in which they became READY (R119); the entries go in cache index order, which neither rule states
(DESIGN CHOICE, log 54). -/
def Part.reprobePattern (p : Part) (f : Flush) : Part :=
  let hit := p.path.cache.filter fun (e : Nat × CacheEntry) => f.hits e.2.record.primary
  let again : List (Nat × Key) := hit.flatMap fun e => p.readyContexts e.1
  let p := again.foldl (fun (q : Part) x => q.resolveKey x.1 x.2 .chained) p
  again.foldl (fun (q : Part) x => q.probe x.1 x.2) p

/-- The hold epoch rises and the pattern flush of a context's hold request begins (R114, steps 2 to 4). -/
def Part.beginFlush (p : Part) (c : Nat) (consignor : BitVec 8) (lot : Option (BitVec 12)) : Part :=
  let epoch := if p.engine.epoch = Config.maxMinute then 0 else p.engine.epoch + 1
  let f : Flush := { consignor := consignor, lot := lot, epoch := epoch, nextSet := 0, ctx := c }
  ({ p with engine.epoch := epoch, path.flush := some f }).reprobePattern f

def HoldLevel.ofTarget : HoldTarget → HoldLevel
  | .consignor _ => .consignor
  | .lot _ _ => .lot
  | .bag _ => .bag
  | .carrier _ => .carrier

/-- The target of a hold as its level lays it out (R172). -/
def holdTargetBody : HoldTarget → Body
  | .consignor c => [fNum 1 c]
  | .lot c l => [fNum 1 c, fNum 2 l]
  | .bag b => [fNum 2 b]
  | .carrier k => [fKey k]

/-- The answer of a HOLD or UNHOLD: level, target, the hold after the request with its reason, the reason replaced or
cleared (R112). -/
def holdAnswer (t : HoldTarget) (after before : Option Nat) : Body :=
  fNum 1 (HoldLevel.ofTarget t).code :: holdTargetBody t ++ fOpt 1 after ++ fOpt 1 before

/-- The hold after a HOLD or UNHOLD with a reason; none where an UNHOLD names another reason (R112, check 5). -/
def holdAfter (un : Bool) (reason : Nat) (before : Option Nat) : Option (Option Nat) :=
  if un then
    match before with
    | none => some none
    | some r => if r = reason then some none else none
  else some (some reason)

/-- Whether a hold request is an UNHOLD, with its target and reason. -/
def holdRequest? : Request → Option (Bool × HoldTarget × Nat)
  | .hold t r => some (false, t, r)
  | .unhold t r => some (true, t, r)
  | _ => none

/-- The branch entry of a LOT-level hold request is read from the root entry on; without a branch block the request is
refused NOT_FOUND (R112, R114). -/
def Part.readLotHold (p : Part) (c : Nat) (consignor lot : Nat) : Part :=
  match (p.rootAt consignor).branch with
  | none => ({ p with engine.holdRead := none }).refuse c .notFound
  | some b => ({ p with engine.holdRead := some c }).issueRead .hold (.branch b lot)

/-- The read of a LOT-level hold request has returned (R114): the change is made in this act, on the entry as it now
stands. -/
def Part.lotHoldRead (p : Part) (c : Nat) : Part :=
  let p := { p with engine.holdRead := none }
  match p.ctx? c with
  | none => p
  | some x =>
    match holdRequest? x.request with
    | some (un, .lot con lot, reason) =>
      match (p.rootAt con).branch with
      | none => p.refuse c .notFound
      | some b =>
        let e := p.branchNow b lot
        match holdAfter un reason e.hold with
        | none => p.refuse c .wrongState
        | some after =>
          let body := holdAnswer (.lot con lot) after e.hold
          if after = e.hold then p.reply c .ok body
          else
            let p := p.pushWrite (some c) (.branch b lot { e with hold := after })
            (p.beginFlush c (BitVec.ofNat 8 con) (some (BitVec.ofNat 12 lot))).reply c .ok body
    | _ => p

/-- A CONSIGNOR-level hold request, whose entry is on-chip (R112, R114). -/
def Part.consignorHold (p : Part) (c : Nat) (un : Bool) (con reason : Nat) : Part :=
  let root := p.rootAt con
  if root.branch.isNone && !un then p.refuse c .notFound
  else
    match holdAfter un reason root.hold with
    | none => p.refuse c .wrongState
    | some after =>
      let body := holdAnswer (.consignor con) after root.hold
      if after = root.hold then p.reply c .ok body
      else
        let p := p.setRoot con { root with hold := after }
        let p := p.pushWrite (some c) (.root con ⟨root.branch, after⟩)
        (p.beginFlush c (BitVec.ofNat 8 con) none).reply c .ok body

/-- One step of the pattern flush (R133): the set's entries of the pattern with an older fill epoch are removed; after
set 63 the flush ends and its request is answered. -/
def Part.flushStep (p : Part) (f : Flush) : Part :=
  let gone := (p.path.cache.filter fun (e : Nat × CacheEntry) =>
    e.1 / 4 == f.nextSet && f.hits e.2.record.primary && e.2.fillEpoch != f.epoch).map fun (e : Nat × CacheEntry) => e.1
  let p := gone.foldl (fun (q : Part) i => q.removeEntry i) p
  if 63 ≤ f.nextSet then ({ p with path.flush := none }).finish f.ctx
  else { p with path.flush := some { f with nextSet := f.nextSet + 1 } }

/-! ### The RANGE_IN_USE check (R108, R195) -/

/-- The first lot from `start` on that a range covers with a consignor. -/
def ExemptRange.nextLot (r : ExemptRange) (consignor start : Nat) : Option Nat :=
  (List.range' start (4096 - start)).find? fun l => r.coversLot (BitVec.ofNat 8 consignor) (BitVec.ofNat 12 l)

/-- The next branch entry the check reads, from a consignor and lot on: consignor, lot and branch block. The entries go by
ascending consignor and then lot, which R108 leaves open (DESIGN CHOICE, log 53). -/
def Part.nextRange (p : Part) (r : ExemptRange) (consignor lot : Nat) : Option (Nat × Nat × Nat) :=
  p.engine.roots.findSome? fun (e : Nat × RootEntry) =>
    if e.1 < consignor then none
    else
      match e.2.branch with
      | none => none
      | some b => (r.nextLot e.1 (if e.1 = consignor then lot else 0)).map fun l => (e.1, l, b)

/-- The exempt check of ENROLL and RELABEL contexts not yet performed whose new key the proposed range covers is made
afresh when the check ends (R108): at once where the key has resolved, at the performance where it is still sought, so that
what its walk ends in does not undo it (log 42). A key that a range covers takes its outcome; a key that held the outcome of
a range and is covered by none goes on as at its first check (`startKey`); another keeps what it has resolved to. The
contexts go in order of taking, which R108 leaves open (DESIGN CHOICE, log 57). -/
def Part.recheckExempt (p : Part) (proposed : ExemptRange) : Part :=
  (byArrival p.engine.contexts).foldl (fun (q : Part) (e : Nat × Context) =>
    match e.2.stage, insertsKey e.2.request with
    | .resolving, some k =>
      if proposed.coversLot k.consignor k.lot then
        if (e.2.resolutionOf k).resolved then
          if (exemptOutcome q.engine.exempt k).isSome || (e.2.resolutionOf k).isExempt then q.startKey e.1 e.2.request k
          else q
        else q.updCtx e.1 fun x => { x with recheck := true }
      else q
    | _, _ => q) p

/-- The range's number and its fields in an answer (R195, which does not say that the number is carried again: DESIGN
CHOICE, log 66). -/
def exemptBody (n : Nat) (r : ExemptRange) : Body :=
  [fNum 1 n, fFlag r.enabled, fNum 1 r.consignor.toNat, fNum 2 r.lot.toNat, fNum 3 r.mask.toNat, fFlag r.barred]

/-- A range takes its five fields, and the configuration write is given (R188, R195). -/
def Part.installRange (p : Part) (c n : Nat) (r : ExemptRange) : Part :=
  let p := { p with engine.exempt := modifyAt p.engine.exempt n fun _ => r }
  p.pushWrite (some c) (.setting (.exempt n r))

/-- The check goes on from a consignor and lot: the next matching entry is read, or the range is installed. The contexts that the
check has kept waiting go on in the act of the install, where R108 has the check end, also where the configuration write is held
and the EXEMPT_SET is answered later, up to which R108 has them wait as well (DESIGN CHOICE, log 79). -/
def Part.rangeFrom (p : Part) (rc : RangeCheck) (consignor lot : Nat) : Part :=
  match p.nextRange rc.proposed consignor lot with
  | some (con, l, b) =>
    ({ p with engine.range := some { rc with begun := true, consignor := con, lot := l } }).issueRead .range (.branch b l)
  | none =>
    let p := ({ p with engine.range := none }).installRange rc.ctx rc.range rc.proposed
    (p.recheckExempt rc.proposed).reply rc.ctx .ok (exemptBody rc.range rc.proposed)

/-- The check begins once no ENROLL or RELABEL whose new key the proposed range covers is performed and not answered. -/
def Part.rangeMayBegin (p : Part) (rc : RangeCheck) : Bool :=
  !rc.begun && !p.engine.contexts.any fun e => e.2.active && (match insertsKey e.2.request with
    | some k => rc.proposed.coversLot k.consignor k.lot
    | none => false)

/-- A read of the check returns: a leaf block found refuses the EXEMPT_SET with the consignor and lot. -/
def Part.rangeRead (p : Part) (rc : RangeCheck) (e : BranchEntry) : Part :=
  match e.leaf with
  | some _ =>
    let p := ({ p with engine.range := none }).recheckExempt rc.proposed
    p.refuse rc.ctx .rangeInUse [fNum 1 rc.consignor, fNum 2 rc.lot]
  | none => p.rangeFrom rc rc.consignor (rc.lot + 1)

/-! ### Reads of a returned block (R99) -/

def Read.inBlock (r : Read) (b : Nat) : Bool := r.target.block? == some b

/-- The operation of an abandoned read begins again from the root entry. The directory turn's own reads are of blocks
only it could return. -/
def Part.restartRead (p : Part) (client : ReadClient) : Part :=
  match client with
  | .walk e =>
    match tfind p.path.missFile e with
    | some w => p.walkRestart e w w.epoch
    | none => p
  | .hold =>
    match p.engine.holdRead with
    | none => p
    | some c =>
      match p.ctx? c with
      | none => p
      | some x =>
        match holdRequest? x.request with
        | some (_, .lot con lot, _) => p.readLotHold c con lot
        | _ => p
  | .range =>
    match p.engine.range with
    | some rc => p.rangeFrom rc 0 0
    | none => p
  | .update | .releaseAll => p

/-- The read is a walk's read of its branch entry, after which the walk reads the leaf block that entry names. -/
def Part.readsForLeaf (p : Part) (r : Read) : Bool :=
  match r.client, r.target with
  | .walk e, .branch _ _ =>
    match tfind p.path.missFile e with
    | some w => w.stage == .branch
    | none => false
  | _, _ => false

/-- A branch entry as a read returns it names a leaf block. -/
def ReadValue.namesLeaf (v : ReadValue) (b : Nat) : Bool :=
  match v with
  | .branch e => e.leaf == some b
  | .leaf _ | .record _ _ => false

/-- A read not yet returned is of a block, or may return a branch entry that sends its walk to the block next: the entry
as the memory holds it, or as a write of the stream will leave it (R99, R126). -/
def Part.readComesTo (p : Part) (b : Nat) (r : Read) : Bool :=
  r.inBlock b || (p.readsForLeaf r && ((p.mem.value r.target).namesLeaf b
    || p.stream.any fun w => match w.body.answers r.target with
      | some v => v.namesLeaf b
      | none => false))

/-- A read that has been answered is of a block, or sends its walk to the block next (R99). -/
def Part.returnComesTo (p : Part) (b : Nat) (r : Returned) : Bool :=
  r.read.inBlock b || (p.readsForLeaf r.read && r.value.namesLeaf b)

/-- A block returned to the pool: the reads of it in flight are abandoned, withdrawn while they wait and discarded once
granted, and so are the reads whose operation would read the block next; their operations begin again (R99, R103, R122,
R128). Several begin again in this order, which no rule gives: that of the granted read, those of the waiting reads in order of
issue, those of the reads already answered (DESIGN CHOICE, log 68). -/
def Part.abandonBlock (p : Part) (b : Nat) : Part :=
  let granted : List Read := match p.path.inFlight with
    | some (.read r) => if r.live && p.readComesTo b r then [r] else []
    | some .write | some .tally | some (.advance _ _) | some (.zone _ _) | none => []
  let waiting := p.path.waiting.filter fun r => p.readComesTo b r
  let returned := p.path.returned.filter fun r => p.returnComesTo b r
  let clients : List ReadClient :=
    granted.map Read.client ++ waiting.map Read.client ++ returned.map fun (r : Returned) => r.read.client
  let p := { p with
    path.waiting := p.path.waiting.filter fun r => !p.readComesTo b r
    path.returned := p.path.returned.filter fun r => !p.returnComesTo b r
    path.inFlight := match p.path.inFlight with
      | some (.read r) => some (.read (if p.readComesTo b r then { r with live := false } else r))
      | a => a }
  clients.foldl (fun (q : Part) cl => (q.restartRead cl).makeProbes) p

/-! ### Entry insertion and removal (R97, R98) -/

/-- The leaf entry of a key as the tables stand. -/
def Part.leafAt (p : Part) (k : Key) : LeafEntry :=
  match (p.rootAt k.consignor.toNat).branch with
  | none => .empty
  | some b =>
    match (p.branchNow b k.lot.toNat).leaf with
    | none => .empty
    | some l => p.leafNow l k.serial.toNat

/-- The slot a leaf entry names. -/
def LeafEntry.slot? : LeafEntry → Option Nat
  | .empty => none
  | .primary s => some s
  | .aliasOf s => some s

/-- The update reads of one key: its branch entry, and its leaf entry where the branch entry names a leaf block (R141). The branch
entry goes first, an order that R141 leaves open (DESIGN CHOICE, log 75). -/
def Part.keyReads (p : Part) (k : Key) : List ReadTarget :=
  match (p.rootAt k.consignor.toNat).branch with
  | none => []
  | some b =>
    .branch b k.lot.toNat :: (match (p.branchNow b k.lot.toNat).leaf with
      | none => []
      | some l => [.leaf l k.serial.toNat])

/-- Takes a block from the head of the free block list when one is lacking. -/
def Part.blockFor (p : Part) (have_ : Option Nat) : Nat × Part :=
  match have_ with
  | some b => (b, p)
  | none =>
    match p.engine.blockFree.pop with
    | some (b, rest) => (b, { p with engine.blockFree := rest })
    | none => (0, p)

/-- The slot an insertion names: the one given for an ALIAS entry, else the head of the slot free list, which becomes
LIVE (R97, R101). -/
def Part.slotFor (p : Part) (aliasSlot : Option Nat) : Option (Nat × Part) :=
  match aliasSlot with
  | some s => some (s, p)
  | none =>
    match p.engine.slotFree.pop with
    | some (s, rest) => some (s, ({ p with engine.slotFree := rest }).setSlot s .live)
    | none => none

/-- The changes and writes of an insertion that has passed its checks (R97): the branch block is taken first; a new block
is written with its one entry set, the leaf block before the branch block that names it (log 21). -/
def Part.placeEntry (p : Part) (c : Nat) (k : Key) (entry : LeafEntry) : Part :=
  let con := k.consignor.toNat
  let lot := k.lot.toNat
  let serial := k.serial.toNat
  let root := p.rootAt con
  let (b, p) := p.blockFor root.branch
  let be := match root.branch with
    | none => ({} : BranchEntry)
    | some b => p.branchNow b lot
  let (l, p) := p.blockFor be.leaf
  let be' := { be with leaf := some l, live := (if be.leaf.isNone then 0 else be.live) + 1 }
  let root' := { root with
    branch := some b
    live := (if root.branch.isNone then 0 else root.live) + (if be.leaf.isNone then 1 else 0) }
  let p := p.setRoot con root'
  let p := if be.leaf.isNone then p.pushWrite (some c) (.block l (.leaf (tput [] serial entry))) else p
  let p := if root.branch.isNone then p.pushWrite (some c) (.block b (.branch (tput [] lot be')))
    else p.pushWrite (some c) (.branch b lot be')
  let p := if be.leaf.isNone then p else p.pushWrite (some c) (.leaf l serial entry)
  if root.branch.isNone then p.pushWrite (some c) (.root con ⟨some b, root.hold⟩) else p

/-- An entry insertion (R97): refused with EXISTS, NO_SLOT or NO_TABLE with nothing changed, or made, with the slot. -/
def Part.entryInsertion (p : Part) (c : Nat) (k : Key) (aliasSlot : Option Nat) : Except Status (Nat × Part) :=
  let root := p.rootAt k.consignor.toNat
  let leafMissing := match root.branch with
    | none => true
    | some b => (p.branchNow b k.lot.toNat).leaf.isNone
  let needed := (if root.branch.isNone then 1 else 0) + (if leafMissing then 1 else 0)
  if p.leafAt k ≠ .empty then .error .exists_
  else
    match p.slotFor aliasSlot with
    | none => .error .noSlot
    | some (s, q) =>
      if q.engine.blockFree.size < needed then .error .noTable
      else .ok (s, q.placeEntry c k (match aliasSlot with
        | some s => .aliasOf s
        | none => .primary s))

/-- An entry removal (R98). A returned block is not written (log 38); the reads of it are abandoned (R99). -/
def Part.entryRemoval (p : Part) (c : Option Nat) (k : Key) : Part :=
  let con := k.consignor.toNat
  let lot := k.lot.toNat
  let root := p.rootAt con
  match root.branch with
  | none => p
  | some b =>
    let be := p.branchNow b lot
    match be.leaf with
    | none => p
    | some l =>
      if 1 < be.live then
        (p.pushWrite c (.leaf l k.serial.toNat .empty)).pushWrite c (.branch b lot { be with live := be.live - 1 })
      else if 1 < root.live then
        let p := p.setRoot con { root with live := root.live - 1 }
        let p := { p with engine.blockFree := p.engine.blockFree.push l }
        (p.pushWrite c (.branch b lot { be with leaf := none, live := 0 })).abandonBlock l
      else
        let p := p.setRoot con { root with branch := none, live := 0 }
        let p := { p with engine.blockFree := (p.engine.blockFree.push l).push b }
        ((p.pushWrite c (.root con ⟨none, root.hold⟩)).abandonBlock l).abandonBlock b

/-- The removal of a key's entry for a carrier: it is made where the entry still names the carrier's slot (R98). -/
def Part.removeEntryOf (p : Part) (c : Option Nat) (slot : Nat) (k : Key) : Part :=
  if (p.leafAt k).slot? = some slot then p.entryRemoval c k else p

/-! ### Releasing a checkout (R163, R164) -/

/-- The body of a RELEASED notice. -/
def releasedBody (k : Key) (cause : ReleaseCause) (holder : Option Checkout) (reason minute : Option Nat) : Body :=
  [fKey k, fNum 1 cause.code]
    ++ (match holder with
        | none => [fNum 1 0]
        | some h => [fNum 1 1, fNum 1 h.port, fNum 1 h.station, fMinute h.since])
    ++ fOpt 1 reason ++ fOptMinute minute

/-- One RELEASED notice to each port of a watch set, in ascending order. -/
def Part.giveReleased (p : Part) (r : CarrierRecord) (cause : ReleaseCause) (holder : Option Checkout)
    (reason : Option Nat) : Part :=
  r.watch.foldl (fun (q : Part) i =>
    q.giveOn i .released false (releasedBody r.primary cause holder reason p.zone.wallMinute)) p

/-- The checkout of a carrier, if it has one, is released (R163): the notices are given, the entry is freed, the index cleared
and the watch set emptied in the record, which unpins the cache entry. -/
def Part.releaseRecord (p : Part) (c : Option Nat) (slot : Nat) (r : CarrierRecord) (cause : ReleaseCause)
    (reason : Option Nat) : Part :=
  match p.checkoutOf slot with
  | none => p
  | some (i, co) =>
    let p := p.giveReleased r cause (some co) reason
    let p := { p with engine.checkouts := tdel p.engine.checkouts i }
    p.changeRecord c slot { r with checkout := none, watch := [] }

/-! ### The directory turn (R141) -/

/-- An update asks for the turn. -/
def Part.askTurn (p : Part) (o : UpdateOwner) : Part :=
  { p with engine.turn := p.engine.turn ++ [({ owner := o } : Update)] }

/-- The record a context works on, with its slot: the first of its working copies. -/
def Context.carrier (x : Context) : Option (Nat × CarrierRecord) := x.working.head?

/-- The keys whose entries an update will change. A RETIRE reads those of the primary key first and then those of each alias, an
order that R141 and R153 leave open (DESIGN CHOICE, log 75). -/
def Part.updateKeys (p : Part) (o : UpdateOwner) : List Key :=
  match o with
  | .withdrawn k _ => [k]
  | .request c =>
    match p.ctx? c with
    | none => []
    | some x =>
      match x.request with
      | .enroll k .. => [k]
      | .relabel _ new _ => [new]
      | .retire .. =>
        match x.carrier with
        | some (_, r) => r.primary :: r.aliases
        | none => []
      | .forceRetire _ s =>
        match p.engine.faults.find? fun f => f.slot == s with
        | some f => [f.key]
        | none => []
      | _ => []

/-- The new record of an ENROLL (R145). -/
def newRecord (k : Key) (minute : Nat) : CarrierRecord := { primary := k, enrolled := minute }

/-- The act of an ENROLL (R146). -/
def Part.enrollAct (p : Part) (c : Nat) (k : Key) (cls : Nat) (exposure bakes : Option Nat) : Part :=
  match p.entryInsertion c k none with
  | .error st => p.refuse c st
  | .ok (s, p) =>
    let p := p.updCtx c fun x => { x with slots := [s] }
    let p := p.changeRecord (some c) s (newRecord k p.minuteNow)
    p.command c [.create s k cls (exposure.getD 0) (bakes.getD 0)]

/-- The act of a RELABEL (R102, R156). -/
def Part.relabelAct (p : Part) (c : Nat) (x : Context) (new : Key) : Part :=
  match x.carrier with
  | none => p
  | some (s, r) =>
    match p.entryInsertion c new (some s) with
    | .error st => p.refuse c st
    | .ok (_, p) =>
      let r := { r with aliases := r.aliases ++ [new] }
      let p := p.changeRecord (some c) s r
      p.reply c .ok (fKey r.primary :: fList (fun k => [fKey k]) r.aliases)

/-- The tally command that ends a carrier's account: LEAVE for a bag member, FREE otherwise (R153, R132). -/
def endingCommand (slot : Nat) (bag : Option Nat) : TallyOp :=
  match bag with
  | some b => .leave slot (Config.bagTallyBase + b)
  | none => .free slot

/-- The act of a RETIRE (R153): each live key of the carrier loses its entry, and the answer counts the entries removed. A slot
found FAULTED stays FAULTED (R100; log 43). -/
def Part.retireAct (p : Part) (c : Nat) (x : Context) (reason : Nat) : Part :=
  match x.carrier with
  | none => p
  | some (s, r) =>
    let held := (p.checkoutOf s).isSome
    let p := p.releaseRecord (some c) s r .retired (some reason)
    let keys := r.primary :: r.aliases
    let removed := keys.countP fun k => (p.leafAt k).slot? == some s
    let p := keys.foldl (fun (q : Part) k => q.removeEntryOf (some c) s k) p
    let p := p.removeSlotEntry s
    let p := if p.slotAt s = .faulted then p else p.setSlot s .retiring
    let p := p.updCtx c fun x => { x with
      head := [fKey r.primary, fNum 2 removed, fNum 1 reason, fFlag held] }
    p.command c [endingCommand s r.link]

/-- The LIVE bag whose member list holds a slot. -/
def Part.bagOfSlot (p : Part) (s : Nat) : Option Nat :=
  (p.engine.bags.find? fun (e : Nat × BagRecord) => e.2.members.any fun m => m.1 == s).map (·.1)

/-- The act of a FORCE_RETIRE (R132). -/
def Part.forceRetireAct (p : Part) (c : Nat) (s : Nat) : Part :=
  match p.engine.faults.find? fun f => f.slot == s with
  | none => p.refuse c .notFound
  | some f =>
    let p := { p with engine.faults := p.engine.faults.filter fun g => g.slot != s }
    let p := p.removeEntryOf (some c) s f.key
    let held := p.checkoutOf s
    let p := match held with
      | some (i, _) => { p with engine.checkouts := tdel p.engine.checkouts i }
      | none => p
    let p := p.setSlot s .withdrawn
    let p := p.updCtx c fun x => { x with head := [fNum 2 s, fKey f.key, fFlag held.isSome] }
    p.command c [endingCommand s (p.bagOfSlot s)]

/-- The act of the update that holds the turn, made when its last read returns; the turn is released (R141). -/
def Part.updateAct (p : Part) (o : UpdateOwner) : Part :=
  let p := { p with engine.turn := p.engine.turn.drop 1 }
  match o with
  | .withdrawn k s => p.removeEntryOf none s k
  | .request c =>
    match p.ctx? c with
    | none => p
    | some x =>
      match x.request with
      | .enroll k cls e b => p.enrollAct c k cls e b
      | .relabel _ new _ => p.relabelAct c x new
      | .retire _ reason _ => p.retireAct c x reason
      | .forceRetire _ s => p.forceRetireAct c s
      | _ => p

/-- The turn is granted to the update at the head: its first read is issued, or, when it has none to make, its act is
made. Which reads it makes is settled here, by the tables as they stand at the grant; R141 does not say when it is (DESIGN CHOICE,
log 75). -/
def Part.grantTurn (p : Part) : Part :=
  match p.engine.turn with
  | [] => p
  | u :: rest =>
    if u.begun then p
    else
      match (p.updateKeys u.owner).flatMap fun k => p.keyReads k with
      | [] => p.updateAct u.owner
      | r :: rs =>
        ({ p with engine.turn := { u with reads := r :: rs, begun := true } :: rest }).issueRead .update r

/-- A read of the turn's holder has returned: the next is issued, or the act is made. R141 only has the act come with the last
read: that the reads are issued one at a time, each in the act in which the one before it returns, and so where each stands among
the reads that wait for the port (R128), is the model's (DESIGN CHOICE, log 75). -/
def Part.updateRead (p : Part) : Part :=
  match p.engine.turn with
  | [] => p
  | u :: rest =>
    match u.reads.drop 1 with
    | [] => p.updateAct u.owner
    | r :: rs => ({ p with engine.turn := { u with reads := r :: rs } :: rest }).issueRead .update r

end Sys2Proof.Machine
end

