-- ==== Sys2Proof/Machine/ZoneOps.lean ====
section
/-! DEFINITION. The zone unit (01, 04): trips and condition lines, starting and ending bakes, the minute's zone work, the gap
charge, the advance becoming visible, and the zone unit's taking of zone requests. -/

namespace Sys2Proof.Machine

/-! ### Trips and aborts (R14, R82 to R84) -/

/-- The minutes a running bake has run: its bake minutes less its timer's remaining minutes (R82). -/
def Part.minutesRun (p : Part) (timer minutes : Nat) : Nat :=
  minutes - (match p.zone.timers.getD timer none with
    | some t => t.remaining
    | none => 0)

/-! ### Bakes that are due and the advance that waits for them (R21, R80) -/

/-- The zone's bake is RUNNING on a timer that has reached 0. -/
def Part.bakeDueAt (p : Part) (z : Nat) : Bool :=
  match (p.zoneAt z).bake with
  | .running t _ =>
    match p.zone.timers.getD t none with
    | some tm => tm.zone == z && tm.remaining == 0
    | none => false
  | .idle | .completing _ _ => false

/-- The zone whose bake timer has reached 0, lowest first. -/
def Part.bakeDue (p : Part) : Option Nat := (List.range Config.numZones).find? fun z => p.bakeDueAt z

/-- What the advance write carries (R21): the computed values with the bake states, remaining minutes and latches. -/
def Part.advanceArea (p : Part) (minute : Nat) : MeterArea :=
  { zones := p.zone.zones.mapIdx fun i z =>
      { p.zoneRecord i with meters := z.metersComputed, dry := z.dryComputed }
    last := some minute }

/-- The advance is written to the meter area as one write. -/
def Part.issueAdvance (p : Part) : Part :=
  match p.zone.advance with
  | some a =>
    if a.issued then p
    else ({ p with zone.advance := some { a with issued := true } }).pushAdvance (p.advanceArea a.minute) a.gap
  | none => p

/-- The advance is written once no bake that reached 0 in its step 3 is still to complete (R21). -/
def Part.advanceWhenDone (p : Part) : Part :=
  match p.bakeDue with
  | some _ => p
  | none => p.issueAdvance

/-- The body of a BAKE_ABORTED notice (R84). -/
def bakeAbortedBody (z : Nat) (cause : BakeAbortCause) (timer minutes run : Nat) (minute : Option Nat) : Body :=
  [fNum 1 z, fNum 1 cause.code, fNum 1 timer, fNum 2 minutes, fNum 2 run] ++ fOptMinute minute

def Part.setTimer (p : Part) (t : Nat) (v : Option BakeTimer) : Part :=
  { p with zone.timers := modifyAt p.zone.timers t fun _ => v }

/-- A RUNNING bake is aborted: its timer is freed, the zone is IDLE, the notice is given (R82, R83). The zone record is
written by the caller, once for the event. -/
def Part.abortBake (p : Part) (z : Nat) (cause : BakeAbortCause) : Part :=
  match (p.zoneAt z).bake with
  | .running t m =>
    let run := p.minutesRun t m
    let p := (p.setTimer t none).setZone z fun zn => { zn with bake := .idle }
    (p.giveRouted .bakeAborted (bakeAbortedBody z cause t m run p.zone.wallMinute)).advanceWhenDone
  | .idle | .completing _ _ => p

def Zone.runningOven (z : Zone) : Bool :=
  z.kind == .oven && (match z.bake with
    | .running _ _ => true
    | .idle | .completing _ _ => false)

/-- A zone has passed from clear to tripped (R14): ZONE_TRIP, then the abort of a running bake. -/
def Part.enterTrip (p : Part) (z : Nat) (cause : TripCause) : Part :=
  let aborted := (p.zoneAt z).runningOven
  let p := p.giveRouted .zoneTrip
    ([fNum 1 z, fNum 1 cause.code] ++ fOptMinute p.zone.wallMinute ++ [fFlag aborted])
  if aborted then p.abortBake z .trip else p

/-- An event changes the fields of a zone: a passage from clear to tripped takes its effects, and a changed latch or bake
state is written as one zone record (R14, R23). -/
def Part.zoneEvent (p : Part) (z : Nat) (cause : TripCause) (f : Zone → Zone) : Part :=
  let before := p.zoneAt z
  let p := p.setZone z f
  let now := p.zoneAt z
  let p := if !before.tripped && now.tripped then p.enterTrip z cause else p
  let after := p.zoneAt z
  if after.tripLatch != before.tripLatch || after.bake != before.bake then p.pushZoneWrite z else p

/-- What a condition line event does to the zone's own fields (R13): the level is recorded in every mode; an assertion
sets the latch in EDGE mode. -/
def Zone.lineEvent (asserted : Bool) (z : Zone) : Zone :=
  { z with lineLevel := asserted, tripLatch := z.tripLatch || (asserted && z.lineMode == .edge) }

/-- The cause a trip by a condition line names. -/
def Zone.lineCause (z : Zone) : TripCause := if z.lineMode == .edge then .lineEdge else .lineLevel

/-- A change of a zone's condition line (R13): the pin changes; the zone unit takes the event from the end of LOAD_ZONES
on, while the part takes events at all (R202). -/
def Part.lineChange (p : Part) (z : Nat) (asserted : Bool) : Part :=
  if p.lines.getD z false = asserted then p
  else
    let p := { p with lines := modifyAt p.lines z fun _ => asserted }
    if p.alive && p.zone.linesTaken then p.zoneEvent z (p.zoneAt z).lineCause (Zone.lineEvent asserted) else p

/-! ### The minute (R1, R2, R19 to R21) -/

/-- The copies of R8 and the pending zone settings of R192. -/
def Part.applyPendings (p : Part) : Part :=
  { p with
    zone.bands := p.zone.pendBands
    zone.weights := p.zone.pendWeights
    zone.zones := p.zone.zones.mapIdx fun i z => z.applyPending (p.tally.occupancy.getD i 0) }

/-- Step 1 for one zone (R11, R12): the flag is refreshed, and ZONE_STALE given when it passes from clear to set. -/
def Part.staleRefresh (p : Part) (minute z : Nat) : Part :=
  let zn := p.zoneAt z
  let stale := zn.staleAt minute
  let p := p.setZone z fun zn => { zn with stale := stale }
  if stale && !zn.stale then
    p.giveRouted .zoneStale ([fNum 1 z, fMinute minute] ++ fOptMinute zn.lastReading ++ [fNum 1 zn.staleLimit])
  else p

/-- The timer of a RUNNING bake counts one minute down (R80); a timer that reaches 0 leaves the completion to be taken. -/
def Part.countDown (p : Part) (before : Bake) : Part :=
  match before with
  | .running t _ =>
    { p with zone.timers := modifyAt p.zone.timers t fun tm =>
        tm.map fun tm => { tm with remaining := tm.remaining - 1 } }
  | .idle | .completing _ _ => p

/-- Steps 1 to 3 of the minute's zone work for one zone; steps 2 and 3 read the bake state once (R19, R80). -/
def Part.workZone (p : Part) (minute z : Nat) : Part :=
  let p := p.staleRefresh minute z
  let bake := (p.zoneAt z).bake
  let weights := p.zone.weights
  (p.setZone z fun zn => zn.advanced weights).countDown bake

/-- The minute's zone work of a tick (R19), its three steps zone by zone in one act (log 13). The write is issued once every
bake that reached 0 has completed. -/
def Part.zoneWork (p : Part) (minute : Nat) : Part :=
  let p := p.fixZoneWrites.applyPendings
  let p := (List.range Config.numZones).foldl (fun (q : Part) z => q.workZone minute z) p
  ({ p with zone.advance := some { minute := minute, gap := false, issued := false } }).advanceWhenDone

/-- The tick's work is owed; a count at 255 loses it (R2). -/
def Part.oweTick (p : Part) : Part := { p with zone.owed := min (p.zone.owed + 1) Config.maxOwed }

/-- A minute tick (R1, R2). -/
def Part.tick (p : Part) : Part :=
  match p.zone.wallMinute with
  | none => p
  | some m =>
    let p := { p with zone.wallMinute := some (nextMinute m) }
    if p.zone.advance.isSome then p.oweTick
    else if p.engine.mode.serving then p.zoneWork (nextMinute m)
    else p

/-- A bake timer that stands at 0 completes its bake (R80): COMPLETING, the timer freed, a bake walk order prepared. With
the last of them the advance is written. -/
def Part.completeBake (p : Part) (z : Nat) : Part :=
  match (p.zoneAt z).bake with
  | .running t m =>
    let p := (p.setTimer t none).setZone z fun zn => { zn with bake := .completing t m }
    ({ p with zone.orders := p.zone.orders ++ [(⟨z, m⟩ : WalkOrder)] }).advanceWhenDone
  | .idle | .completing _ _ => p

/-! ### The advance becomes visible (R21, R22, R46) -/

/-- The lists whose meter's visible value the advance changes. -/
def Part.changedLists (p : Part) : List Nat :=
  (List.range Config.numLists).filter fun l =>
    (p.zoneAt (l / 8)).meters.getD (l % 8) 0 != (p.zoneAt (l / 8)).metersComputed.getD (l % 8) 0

/-- The lists of a zone. -/
def zoneLists (z : Nat) : List Nat := (List.range 8).map fun c => listOf z c

/-- A list's busy flag. -/
def Part.setBusy (p : Part) (l : Nat) (b : Bool) : Part := p.setList l { p.listAt l with busy := b }

/-- The tally unit receives a bake walk order (R46): the flags of the zone's lists that no walk holds are set. -/
def Part.receiveOrder (p : Part) (o : WalkOrder) : Part :=
  let p := { p with tally.bakeWalks := p.tally.bakeWalks ++ [({ zone := o.zone, minutes := o.minutes } : BakeWalk)] }
  (zoneLists o.zone).foldl (fun (q : Part) l => if (q.listAt l).walk.isNone then q.setBusy l true else q) p

/-- What the completion of an advance's write does (R21): visible values and last-advance minute, marks, orders. -/
def Part.makeVisible (p : Part) (area : MeterArea) : Part :=
  let marks := p.changedLists
  let p := { p with
    mem.meters := area
    zone.zones := p.zone.zones.map fun (z : Zone) => { z with meters := z.metersComputed, dry := z.dryComputed }
    zone.lastAdvance := area.last
    zone.advance := none
    tally.marks := marks.foldl (fun ms l => insertSorted l ms) p.tally.marks }
  let orders := p.zone.orders
  orders.foldl (fun (q : Part) o => q.receiveOrder o) { p with zone.orders := [] }

/-- An owed tick's zone work begins (R2), on the wall minute as it then stands. -/
def Part.beginOwed (p : Part) : Part :=
  if p.zone.owed = 0 ∨ p.zone.advance.isSome then p
  else
    match p.zone.wallMinute with
    | some m => ({ p with zone.owed := p.zone.owed - 1 }).zoneWork m
    | none => p

/-- The write of a tick's advance completes (R21). -/
def Part.advanceDone (p : Part) (area : MeterArea) : Part :=
  let p := { p with zone.writes := p.zone.writes.drop 1 }
  ((p.makeVisible area).endAccess).beginOwed

/-- The write of the gap charge completes (R207): the charge is visible, the mode passes on, owed work begins. -/
def Part.gapDone (p : Part) (area : MeterArea) : Part :=
  let p := { p with zone.writes := p.zone.writes.drop 1 }
  let p := (p.makeVisible area).endAccess
  let entered : Mode := if p.engine.unlisted = 0 then .running else .readOnly
  let left := p.engine.mode
  let p := { p with engine.mode := entered }
  let p := p.giveModeChange left entered (if p.engine.unlisted = 0 then .startDone else .unlistedFaults)
  p.beginOwed

/-- The write of one zone's record completes (R23). -/
def Part.zoneWritten (p : Part) (z : Nat) (r : ZoneRecord) : Part :=
  ({ p with
      zone.writes := p.zone.writes.drop 1
      mem.meters.zones := modifyAt p.mem.meters.zones z fun _ => r }).endAccess

/-- The gap charge begins (R207). -/
def Part.beginGap (p : Part) : Part :=
  let p := p.fixZoneWrites.applyPendings
  let now := p.minuteNow
  let gap := match p.zone.lastAdvance with
    | none => 0
    | some last => now - last
  let weights := p.zone.weights
  let p := { p with
    engine.mode := .rebuilding .chargeGap
    zone.zones := p.zone.zones.map fun (z : Zone) => z.gapCharged weights gap
    zone.advance := some { minute := now, gap := true, issued := false } }
  p.issueAdvance

/-! ### Zone requests, as the zone unit takes them in the act of performance (log 14) -/

/-- CLIMATE (R18): the status and body of the answer. -/
def Part.takeClimate (p : Part) (z : Nat) (temperature : Int) (humidity : Nat) : Status × Body × Part :=
  if Config.numZones ≤ z ∨ temperature < -400 ∨ 1250 < temperature ∨ 1000 < humidity then (.badField, [], p)
  else
    let band := classifyReading p.zone.bands temperature humidity
    let minute := p.minuteNow
    (.ok, [fNum 1 z, fNum 1 band],
      p.setZone z fun zn => { zn with presentBand := band, lastReading := some minute, stale := false })

/-- TRIP (R15). -/
def Part.takeTrip (p : Part) (z : Nat) : Status × Body × Part :=
  if Config.numZones ≤ z then (.badField, [], p)
  else
    let p := p.zoneEvent z .request fun zn => { zn with tripLatch := true }
    (.ok, [fNum 1 z, fFlag (p.zoneAt z).tripped], p)

/-- CLEAR_TRIP (R16). -/
def Part.takeClearTrip (p : Part) (z : Nat) : Status × Body × Part :=
  if Config.numZones ≤ z then (.badField, [], p)
  else
    let p := p.zoneEvent z .request fun zn => { zn with tripLatch := false }
    (.ok, [fNum 1 z, fFlag (p.zoneAt z).tripped], p)

/-- BAKE_START (R78). -/
def Part.takeBakeStart (p : Part) (z minutes : Nat) : Status × Body × Part :=
  if Config.numZones ≤ z ∨ minutes = 0 ∨ 2880 < minutes then (.badField, [], p)
  else if (p.zoneAt z).kind ≠ .oven then (.wrongZoneKind, [], p)
  else if (p.zoneAt z).baking then (.ovenBusy, [], p)
  else if (p.zoneAt z).tripped then (.zoneTripped, [], p)
  else
    match p.zone.timers.findIdx? Option.isNone with
    | none => (.noBakeTimer, [], p)
    | some t =>
      let p := (p.setTimer t (some ⟨z, minutes⟩)).setZone z fun zn => { zn with bake := .running t minutes }
      (.ok, [fNum 1 z, fNum 1 t, fNum 2 minutes, fMinute p.minuteNow], p.pushZoneWrite z)

/-- BAKE_STOP (R82). -/
def Part.takeBakeStop (p : Part) (z : Nat) : Status × Body × Part :=
  if Config.numZones ≤ z then (.badField, [], p)
  else if (p.zoneAt z).kind ≠ .oven then (.wrongZoneKind, [], p)
  else
    match (p.zoneAt z).bake with
    | .idle => (.wrongState, [], p)
    | .completing _ _ => (.bakeFinishing, [], p)
    | .running t m =>
      let run := p.minutesRun t m
      (.ok, [fNum 1 z, fNum 2 m, fNum 2 run], (p.abortBake z .stop).pushZoneWrite z)

/-- The number of OVEN zones. -/
def Part.ovens (p : Part) : Nat := p.zone.zones.countP fun z => z.kind == .oven

/-- A tally is RESIDENT in the zone. -/
def Part.occupied (p : Part) (z : Nat) : Bool :=
  p.tally.table.any fun e => match e.2 with
    | .resident r => r.zone == z
    | .free | .sealed _ _ _ | .following _ _ => false

/-- The first check of ZONE_SET that fails (R191). -/
def Part.zoneSetRefusal (p : Part) (z : Nat) (kind capacity fallback stale mode : Option Nat) : Option Status :=
  let occupancy := p.tally.occupancy.getD z 0
  let zn := p.zoneAt z
  let newKind := (kind.bind ZoneKind.ofCode).getD zn.kind
  if Config.numZones ≤ z ∨ !inRange 2 kind ∨ !inRange 65535 capacity ∨ !inRange 7 fallback ∨ !inRange 255 stale
      ∨ !inRange 2 mode then some .badField
  else if newKind ≠ zn.kind ∧ zn.baking then some .ovenBusy
  else if newKind ≠ zn.kind ∧ (occupancy ≠ 0 ∨ p.occupied z) then some .zoneOccupied
  else if newKind ≠ zn.kind ∧ newKind = .oven ∧ Config.maxOvens ≤ p.ovens then some .wrongZoneKind
  else
    match capacity with
    | some cap => if cap ≠ 0 ∧ cap < occupancy then some .zoneFull else none
    | none => none

/-- The fields of a zone after ZONE_SET (R17, R191). -/
def Zone.withSettings (kind capacity fallback stale mode : Option Nat) (z : Zone) : Zone :=
  let newMode := (mode.bind LineMode.ofCode).getD z.lineMode
  { z with
    kind := (kind.bind ZoneKind.ofCode).getD z.kind
    pendCapacity := capacity.getD z.pendCapacity
    pendFallback := fallback.getD z.pendFallback
    pendStaleLimit := stale.getD z.pendStaleLimit
    lineMode := newMode
    tripLatch := if newMode ≠ z.lineMode ∧ newMode = .off then false else z.tripLatch }

/-- A value that is present when it differs from another. -/
def differing (width v inForce : Nat) : Body := fOpt width (if v = inForce then none else some v)

/-- The answer of ZONE_SET (R191). -/
def Part.zoneSetBody (p : Part) (z : Nat) : Body :=
  let zn := p.zoneAt z
  [fNum 1 z, fNum 1 zn.kind.code, fNum 1 zn.lineMode.code, fNum 2 zn.capacity, fNum 1 zn.fallback, fNum 1 zn.staleLimit]
    ++ differing 2 zn.pendCapacity zn.capacity ++ differing 1 zn.pendFallback zn.fallback
    ++ differing 1 zn.pendStaleLimit zn.staleLimit ++ [fNum 4 (p.tally.occupancy.getD z 0), fFlag zn.tripped]

/-- ZONE_SET (R191), with its configuration write (R188). Where one ZONE_SET changes the trip latch or ends a bake as well, its
zone record write is given before the configuration write, so that an idle port grants it first (R128); R191 gives no order
(DESIGN CHOICE, log 70). -/
def Part.takeZoneSet (p : Part) (c z : Nat) (kind capacity fallback stale mode : Option Nat) : Status × Body × Part :=
  match p.zoneSetRefusal z kind capacity fallback stale mode with
  | some st => (st, [], p)
  | none =>
    let p := p.zoneEvent z .modeChange (Zone.withSettings kind capacity fallback stale mode)
    let zn := p.zoneAt z
    let p := p.pushWrite (some c) (.setting (.zone z
      { kind := zn.kind, capacity := zn.pendCapacity, fallback := zn.pendFallback, staleLimit := zn.pendStaleLimit
        lineMode := zn.lineMode }))
    (.ok, p.zoneSetBody z, p)

/-- The zone unit takes a bake walk's completion report (R89, R90). -/
def Part.takeReport (p : Part) (r : WalkReport) : Part :=
  let p := { p with zone.reports := p.zone.reports.drop 1 }
  match (p.zoneAt r.zone).bake with
  | .completing t m =>
    let p := (p.setZone r.zone fun zn => { zn with bake := .idle }).pushZoneWrite r.zone
    p.giveRouted .bakeDone [fNum 1 r.zone, fNum 1 t, fNum 2 m, fMinute p.minuteNow, fNum 4 r.reset, fNum 4 r.exhausted,
      fNum 4 r.ineligible]
  | .idle | .running _ _ => p

end Sys2Proof.Machine
end

