-- ==== Sys2Proof/Machine/DueLists.lean ====
section
/-! DEFINITION. Due lists (02) and the bake walk over them (04): notices of tallies with their holder copies, bringing a list
current, insertion, removal, and the re-forming of an oven's lists. -/

namespace Sys2Proof.Machine

/-! ### Lists -/

/-- The element after `n`. -/
def nextIn (n : Nat) : List Nat → Option Nat
  | [] => none
  | a :: rest => if a = n then rest.head? else nextIn n rest

/-- The element before `n`. -/
def prevIn (n : Nat) : List Nat → Option Nat
  | [] => none
  | [_] => none
  | a :: b :: rest => if b = n then some a else prevIn n (b :: rest)

/-- Places `n` after `after`, or at the head. -/
def insertAfter (after : Option Nat) (n : Nat) (order : List Nat) : List Nat :=
  match after with
  | none => n :: order
  | some a => order.takeWhile (· ≠ a) ++ a :: n :: (order.dropWhile (· ≠ a)).drop 1

def Part.residentAt (p : Part) (n : Nat) : Option Resident :=
  match p.tallyAt n with
  | .resident r => some r
  | .free | .sealed _ _ _ | .following _ _ => none

/-- A class is listed when its budget is not 0 (R31). -/
def Part.listedClass (p : Part) (cls : Nat) : Bool := (p.classAt cls).budget != 0

/-- The visible meter of a zone and class. -/
def Part.meterAt (p : Part) (zone cls : Nat) : Nat := p.meterOf (listOf zone cls)

/-- The exposure of a tally (R28); a FREE or FOLLOWING tally has none of its own. -/
def Part.exposure (p : Part) (t : Tally) : Nat :=
  match t with
  | .sealed _ _ a => a.banked
  | .resident r => exposureOf r.acct.banked (p.meterAt r.zone r.cls) r.entryMark
  | .free | .following _ _ => 0

/-- The remaining minutes of a tally (R29); none is the unlimited value. -/
def Part.remaining (p : Part) (t : Tally) : Option Nat :=
  match t with
  | .sealed _ c a => remainingOf (p.classAt c) a.expired a.banked
  | .resident r => remainingOf (p.classAt r.cls) r.acct.expired (p.exposure t)
  | .free | .following _ _ => some 0

/-! ### Notices of tallies (R35, R165) -/

/-- The fields of R35. -/
def Part.tallyNoticeBody (p : Part) (kind : NoticeKind) (r : Resident) : Body :=
  [fNum 1 kind.code] ++ fOwner r.owner r.members ++ [fNum 1 r.zone, fNum 1 r.cls, fMinute p.minuteNow]
    ++ (match kind with
        | .warn => [fRemaining (p.remaining (.resident r))]
        | _ => [fMinute (r.acct.expiredAt.getD p.expiryMinute)])

/-- The checkouts that hold the carriers of a tally (R165), those of a bag's in the order of its member list, which R165 leaves open
(DESIGN CHOICE, log 25). -/
def Part.holders (p : Part) (n : Nat) : List Checkout :=
  let slots : List Nat :=
    if n < Config.bagTallyBase then [n]
    else (p.bagAt (n - Config.bagTallyBase)).members.map fun m => m.1
  slots.filterMap fun s => (p.checkoutOf s).map (·.2)

/-- A WARN or EXPIRED notice of a tally: the routed notice, then the holder copies in ascending port order, leaving out
the routed port (R165). -/
def Part.giveTallyNotice (p : Part) (kind : NoticeKind) (n : Nat) (r : Resident) : Part :=
  let body := p.tallyNoticeBody kind r
  let routed := p.routeOf kind
  let held := p.holders n
  let p := p.giveRouted kind body
  (List.range Config.numPorts).foldl (fun (q : Part) i =>
    let on := held.filter fun h => h.port == i
    if on = [] ∨ routed = some i then q
    else q.giveOn i kind true (body ++ fList (fun h => [fKey h.primary, fNum 1 h.station]) on)) p

/-! ### Links and cursors (R32, R33) -/

/-- The links of every tally of a list agree with the list's order; each tally so changed is written (R58, R88), from the
head of the list to its tail, an order that neither rule gives (DESIGN CHOICE, log 62). -/
def Part.relink (p : Part) (l : Nat) (cmd : Option Nat) : Part :=
  let order := (p.listAt l).order
  order.foldl (fun (q : Part) n =>
    match q.residentAt n with
    | some r =>
      match r.marks with
      | some m =>
        let m' := { m with prevLink := prevIn n order, nextLink := nextIn n order }
        if m' = m then q else q.setTally n (.resident { r with marks := some m' }) cmd
      | none => q
    | none => q) p

/-- The first tally of an order whose account satisfies a test. -/
def Part.firstWith (p : Part) (order : List Nat) (f : Account → Bool) : Option Nat :=
  order.find? fun n => match p.residentAt n with
    | some r => f r.acct
    | none => false

/-- The cursors as R33 requires. -/
def Part.setCursors (p : Part) (l : Nat) : Part :=
  let d := p.listAt l
  p.setList l { d with
    expiryCursor := p.firstWith d.order fun a => !a.expired
    warnCursor := p.firstWith d.order fun a => !a.warned }

/-! ### Bringing a list current (R34) -/

/-- The tally at the expiry cursor is flagged expired, and both cursors stand as R33 requires. "The next tally" of R34 is the
next that lacks the flag: an exhausted tally keeps a due mark above the meter (R86) and, re-formed to the front (R88), may come to
stand behind a tally inserted since (DEDUCED, log 78). -/
def Part.expireAt (p : Part) (l n : Nat) (r : Resident) : Part :=
  let r' := { r with acct := { r.acct with warned := true, expiredAt := some p.expiryMinute } }
  let p := (p.setTally n (.resident r') none).setCursors l
  p.giveTallyNotice .expired n r'

/-- The tally at the warn cursor is flagged warned, and the warn cursor passes to the next tally that lacks the flag (R33; DEDUCED,
log 78). No expired flag changes, so the expiry cursor stays. -/
def Part.warnAt (p : Part) (l n : Nat) (r : Resident) : Part :=
  let r' := { r with acct := { r.acct with warned := true } }
  let p := p.setTally n (.resident r') none
  let d := p.listAt l
  let p := p.setList l { d with warnCursor := p.firstWith d.order fun a => !a.warned }
  p.giveTallyNotice .warn n r'

/-- Step 1 of R34; the fuel is the list's count. -/
def Part.expireDue (l m : Nat) : Nat → Part → Part
  | 0, p => p
  | fuel + 1, p =>
    match (p.listAt l).expiryCursor with
    | none => p
    | some n =>
      match p.residentAt n with
      | none => p
      | some r =>
        match r.marks with
        | some marks => if marks.due ≤ m then Part.expireDue l m fuel (p.expireAt l n r) else p
        | none => p

/-- Step 2 of R34. -/
def Part.warnDue (l m : Nat) : Nat → Part → Part
  | 0, p => p
  | fuel + 1, p =>
    match (p.listAt l).warnCursor with
    | none => p
    | some n =>
      match p.residentAt n with
      | none => p
      | some r =>
        match r.marks with
        | some marks => if marks.warn ≤ m then Part.warnDue l m fuel (p.warnAt l n r) else p
        | none => p

/-- A list is brought current against the visible meter (R34). -/
def Part.bringCurrent (p : Part) (l : Nat) : Part :=
  let m := p.meterOf l
  let count := (p.listAt l).order.length
  Part.warnDue l m count (Part.expireDue l m count p)

/-! ### Holding and releasing (R44, R46, R81) -/

/-- The list is held: a walk in flight, the busy flag, or an oven whose order has not been received (R44, R81). -/
def Part.listHeld (p : Part) (l : Nat) : Bool :=
  (p.listAt l).walk.isSome || (p.listAt l).busy || p.zone.orders.any fun o => o.zone == l / 8

/-- A walk in flight on a list ends; a bake walk that waits for the list sets its busy flag in the act (R46). -/
def Part.releaseList (p : Part) (l : Nat) : Part :=
  p.setList l { p.listAt l with
    walk := none
    busy := (p.listAt l).busy || p.tally.bakeWalks.any fun b => b.zone == l / 8 }

/-! ### Insertion (R36, R37, R39) -/

/-- Takes an arm sequence (R39). -/
def Part.takeSeq (p : Part) : Nat × Part :=
  (p.tally.armSeq, { p with tally.armSeq := min (p.tally.armSeq + 1) Config.maxArmSeq })

/-- The act at the end of an insertion walk: the tally stands after `after` or at the head, with its marks, a fresh arm
sequence, its flags set against M, and its notice given (R36, R37). The tally's own write goes first, then those of its
neighbours' links; R58 orders only the writes of JOIN and SPLIT (DESIGN CHOICE, log 30). -/
def Part.placeTally (p : Part) (l n m due warn : Nat) (after : Option Nat) (cmd : Option Nat) : Part :=
  match p.residentAt n with
  | none => p
  | some r =>
    let (seq, p) := p.takeSeq
    let (acct, notice) := flagsAtInsertion r.acct m due warn p.expiryMinute
    let order := insertAfter after n (p.listAt l).order
    let marks : Marks := { due := due, warn := warn, seq := seq, prevLink := prevIn n order, nextLink := nextIn n order }
    let r' := { r with acct := acct, marks := some marks }
    let p := p.setTally n (.resident r') cmd
    let p := p.setList l { p.listAt l with order := order }
    let p := (p.relink l cmd).setCursors l
    match notice with
    | some kind => p.giveTallyNotice kind n r'
    | none => p

/-- The marks a tally gets when it is placed (R30). -/
def Part.marksOf (p : Part) (r : Resident) : Nat × Nat :=
  let c := p.classAt r.cls
  let due := dueMarkOf c r.acct.expired r.acct.banked r.entryMark
  (due, warnMarkOf c due)

/-- An insertion walk begins (R36): the list is brought current, M and the marks are kept, the walk stands at the tail.
`n` is RESIDENT in the list's zone already. -/
def Part.startInsertion (p : Part) (cmd n : Nat) (r : Resident) : Part :=
  let l := listOf r.zone r.cls
  let p := p.bringCurrent l
  let (due, warn) := p.marksOf r
  let d := p.listAt l
  p.setList l { d with walk := some (.insertion cmd n (p.meterOf l) due warn d.order.getLast?) }

/-- The due mark of a listed tally. -/
def Part.dueOf (p : Part) (n : Nat) : Nat :=
  match p.residentAt n with
  | some r => match r.marks with
    | some m => m.due
    | none => 0
  | none => 0

/-- The tally a new due mark is placed after: the last whose due mark is not greater. -/
def Part.lastNotAbove (p : Part) (order : List Nat) (due : Nat) : Option Nat :=
  order.reverse.find? fun n => p.dueOf n ≤ due

/-! ### Removal (R38) -/

/-- A listed tally leaves its list in one act. The tally itself is written by the caller. -/
def Part.unlist (p : Part) (n : Nat) (r : Resident) (cmd : Option Nat) : Part :=
  let l := listOf r.zone r.cls
  let d := p.listAt l
  if r.marks.isSome then
    let p := p.setList l { d with order := d.order.erase n }
    (p.relink l cmd).setCursors l
  else p

/-! ### The bake walk (R85 to R90) -/

/-- The class's minimum bake is at or below the bake minutes. -/
def Part.eligible (p : Part) (b : BakeWalk) : Bool := (p.classAt b.cls).minBake ≤ b.minutes

/-- R86: an exhausted tally. -/
def Part.exhaustTally (p : Part) (n : Nat) (r : Resident) : Part :=
  let r' := { r with acct := { r.acct with
    exhausted := true
    warned := true
    expiredAt := some (r.acct.expiredAt.getD p.expiryMinute) } }
  let p := p.setTally n (.resident r') none
  if r.acct.expired then p else p.giveTallyNotice .expired n r'

/-- R87: a reset tally. -/
def Part.resetTally (p : Part) (n : Nat) (r : Resident) : Part :=
  let m := p.meterAt r.zone r.cls
  let c := p.classAt r.cls
  let due := m + c.budget * 16
  let (seq, p) := p.takeSeq
  let marks := r.marks.map fun mk => { mk with due := due, warn := warnMarkOf c due, seq := seq }
  p.setTally n (.resident { r with
    acct := { r.acct with banked := 0, warned := false, expiredAt := none, bakeCount := r.acct.bakeCount + 1 }
    entryMark := m
    marks := marks }) none

/-- One visit of a bake walk: the walk with its counts and sets, and the tally exhausted, reset or left. -/
def Part.bakeVisit (p : Part) (b : BakeWalk) (n : Nat) : BakeWalk × Part :=
  match p.residentAt n with
  | none => (b, p)
  | some r =>
    if p.eligible b then
      if (p.classAt b.cls).bakeLimit ≤ r.acct.bakeCount then
        ({ b with spent := b.spent ++ [n], exhausted := b.exhausted + r.carriers }, p.exhaustTally n r)
      else ({ b with renewed := b.renewed ++ [n], reset := b.reset + r.carriers }, p.resetTally n r)
    else ({ b with ineligible := b.ineligible + r.carriers }, p)

/-- R88: an eligible list is re-formed with its exhausted tallies first, and brought current. -/
def Part.reform (p : Part) (l : Nat) (b : BakeWalk) : Part :=
  if p.eligible b then
    let p := p.setList l { p.listAt l with order := b.spent ++ b.renewed }
    ((p.relink l none).setCursors l).bringCurrent l
  else p

def Part.setBakeWalk (p : Part) (b : BakeWalk) : Part :=
  { p with tally.bakeWalks := p.tally.bakeWalks.map fun (w : BakeWalk) => if w.zone = b.zone then b else w }

/-- R89: the busy flags are cleared in one act and the completion is reported. -/
def Part.endBakeWalk (p : Part) (b : BakeWalk) : Part :=
  let p := (zoneLists b.zone).foldl (fun (q : Part) l => q.setBusy l false) p
  { p with
    tally.bakeWalks := p.tally.bakeWalks.filter fun (w : BakeWalk) => w.zone != b.zone
    zone.reports := p.zone.reports
      ++ [({ zone := b.zone, reset := b.reset, exhausted := b.exhausted, ineligible := b.ineligible } : WalkReport)] }

/-- The first class from `cls` on whose list of the zone is not empty; a list whose count is 0 takes no step. -/
def Part.nextBakeClass (p : Part) (zone cls : Nat) : Option Nat :=
  (List.range' cls (8 - cls)).find? fun c => !(p.listAt (listOf zone c)).order.isEmpty

/-- A list has been visited to its tail: it is re-formed, and the walk passes to the next class, or ends. -/
def Part.bakeListDone (p : Part) (b : BakeWalk) : Part :=
  let p := p.reform (listOf b.zone b.cls) b
  let b := { b with visit := none, spent := [], renewed := [], cls := b.cls + 1 }
  match p.nextBakeClass b.zone b.cls with
  | some c => p.setBakeWalk { b with cls := c }
  | none => p.endBakeWalk b

/-- One step of a bake walk: the next tally is visited; before the first of a list, the list is brought current. A list of
count 0 takes no step (R85); a walk that has no list left to visit ends in a step of its own that visits nothing, since R85
does not say when the walk of an oven whose lists are all empty ends (DESIGN CHOICE, log 61). -/
def Part.bakeStep (p : Part) (b : BakeWalk) : Part :=
  match p.nextBakeClass b.zone b.cls with
  | none => p.endBakeWalk b
  | some c =>
    let b := { b with cls := c }
    let l := listOf b.zone c
    let (todo, p) := match b.visit with
      | some rest => (rest, p)
      | none => let q := p.bringCurrent l; ((q.listAt l).order, q)
    match todo with
    | [] => p.bakeListDone b
    | n :: rest =>
      let (b, p) := p.bakeVisit b n
      let b := { b with visit := some rest }
      if rest = [] then p.bakeListDone b else p.setBakeWalk b

/-- The walk of a zone may step: it has its order and all 8 busy flags are set (R46). -/
def Part.bakeWalkReady (p : Part) (z : Nat) : Option BakeWalk :=
  match p.tally.bakeWalks.find? fun (b : BakeWalk) => b.zone == z with
  | some b => if (zoneLists z).all fun l => (p.listAt l).busy then some b else none
  | none => none

end Sys2Proof.Machine
end

