-- ==== Sys2Proof/Machine/Completion.lean ====
section
/-! DEFINITION. What the completion of a tally command does in the request engine (R142): the record and bag changes tied to
it, the further commands, and the answer. -/

namespace Sys2Proof.Machine

/-! ### Contents of answers -/

/-- The reported state of a tally as an answer carries it (R27). -/
def Part.stateField (p : Part) (t : Tally) : Field :=
  fNum 1 (match reportedState t p.zone.zones with
    | some s => s.code
    | none => 0)

/-- Warned, expired and exhausted flags, in the order of R26. -/
def flagFields (a : Account) : Body := [fFlag a.warned, fFlag a.expired, fFlag a.exhausted]

def Tally.account (t : Tally) : Account := t.acct?.getD {}

/-- The fresh account of a tally (R150): reported state, exposure and remaining minutes, flags and expired-at, bake
count. -/
def Part.accountBody (p : Part) (t : Tally) : Body :=
  [p.stateField t, fExposure (p.exposure t), fRemaining (p.remaining t)] ++ flagFields t.account
    ++ fOptMinute t.account.expiredAt ++ [fNum 1 t.account.bakeCount]

def Tally.zone? : Tally → Option Nat
  | .resident r => some r.zone
  | .free | .sealed _ _ _ | .following _ _ => none

def Tally.members : Tally → Nat
  | .resident r => r.members.getD 0
  | .free | .sealed _ _ _ | .following _ _ => 0

/-- A hold with its reason: one byte set or clear and, when set, its fields (log 16). -/
def effectiveBody : Option (HoldLevel × Nat) → Body
  | none => [fNum 1 0]
  | some (l, r) => [fNum 1 1, fNum 1 l.code, fNum 1 r]

def holderBody : Option Checkout → Body
  | none => [fNum 1 0]
  | some h => [fNum 1 1, fNum 1 h.port, fNum 1 h.station, fMinute h.since]

/-! ### Bags (R65, R66, R69) -/

/-- A member's entry leaves the member list; an empty list begins dissolution (R65, R68, R69). -/
def Part.memberGone (p : Part) (c b slot : Nat) : Part :=
  match p.bagAt b with
  | .live ms h created =>
    let ms' := ms.filter fun m => m.1 != slot
    if ms' = [] then
      (p.changeBag (some c) b (.closing h created)).command c [.free (Config.bagTallyBase + b)]
    else p.changeBag (some c) b (.live ms' h created)
  | .free | .closing _ _ => p

/-- The record of a member parted from its bag: its own tally again, with the bag hold inherited where its own carrier
hold is clear (R65, R66). -/
def partedRecord (r : CarrierRecord) (bagHold : Option Nat) : CarrierRecord :=
  { r with link := none, hold := r.hold.or bagHold }

/-- The changes at the completion of a SPLIT (R65, R66): the member record is written before the bag record. -/
def Part.partMember (p : Part) (c b slot : Nat) : Part :=
  match p.ctx? c with
  | none => p
  | some x =>
    match tfind x.working slot with
    | none => p.memberGone c b slot
    | some r => (p.changeRecord (some c) slot (partedRecord r (p.bagAt b).hold)).memberGone c b slot

/-- The number of carriers a bag's member list holds. -/
def Part.memberCount (p : Part) (b : Nat) : Nat := (p.bagAt b).members.length

/-- The FREE of a dissolved bag's tally has completed (R69). -/
def Part.bagFreed (p : Part) (c b : Nat) : Part :=
  let p := p.changeBag (some c) b .free
  { p with engine.bagFree := p.engine.bagFree.push b }

/-- The JOIN of a multi-key OPEN has completed (R63): the bag record is written before its members', and these in the order of the
request, which R63, R74 and R124 leave open (DESIGN CHOICE, log 83). -/
def Part.bagFormed (p : Part) (c b : Nat) (members : List Nat) : Part :=
  match p.ctx? c with
  | none => p
  | some x =>
    let found : List (Nat × CarrierRecord) := members.filterMap fun s => (tfind x.working s).map fun r => (s, r)
    let p := p.changeBag (some c) b (.live (found.map fun m => (m.1, m.2.primary)) none p.minuteNow)
    found.foldl (fun (q : Part) m => q.changeRecord (some c) m.1 { m.2 with link := some b }) p

/-! ### Answers of READ (R147, R148, R162, R73) -/

/-- PRIMARY or ALIAS as the leaf entry of a key of the context gave (R147). A key that resolved to no carrier has no such entry,
and no answer tells a form of it. -/
def Context.keyForm (x : Context) (k : Key) : KeyForm :=
  match x.resolutionOf k with
  | .entry _ _ _ form => form
  | .chained | .missWait | .fetching | .exempt _ _ | .notFound | .recordFault | .byTurn => .primary

/-- The contents of a LOOKUP answered from a READ (R147): the record, the holds and the holder as they stood at performance, the
account as the READ finds it. No rule names the source of the member count: it is the bag tally's at the READ, with the account, and
not the length of the member list at performance, which the reads of performance could have given as well (DESIGN CHOICE,
log 85). -/
def Part.lookupBody (p : Part) (x : Context) (k : Key) (r : CarrierRecord) (t : Tally) : Body :=
  [fNum 1 0, fNum 1 (x.keyForm k).code, fKey r.primary] ++ fList (fun k => [fKey k]) r.aliases
    ++ [fNum 1 (t.cls?.getD 0), p.stateField t] ++ fOpt 1 t.zone?
    ++ [fExposure (p.exposure t), fRemaining (p.remaining t), fFlag t.account.warned, fFlag t.account.exhausted]
    ++ fOptMinute t.account.expiredAt ++ [fNum 1 t.account.bakeCount]
    ++ effectiveBody x.holdRead ++ holderBody x.holderRead
    ++ (match r.link with
        | none => [fNum 1 0]
        | some b => [fNum 1 1, fNum 2 b, fNum 2 t.members])
    ++ [fMinute r.enrolled]

/-- Conditions 4 to 9 of VERIFY in order: the reason code of the first that applies (R148). -/
def Part.verifyReason (p : Part) (x : Context) (port station need : Nat) (t : Tally) : Option Nat :=
  let zone := p.zoneAt (t.zone?.getD 0)
  if t.account.exhausted then some 5
  else if t.account.expired then some 6
  else if x.holdRead.isSome then some 7
  else if reportedState t p.zone.zones ≠ some .open_ ∨ zone.kind ≠ .floor then some 8
  else if (match x.holderRead with
      | some h => h.port != port || h.station != station
      | none => false) then some 9
  else if (match p.remaining t with
      | some m => decide (m < need)
      | none => false) then some 10
  else none

/-- The contents of a VERIFY judged at its READ (R148): verdict, reason, remaining, state, zone, and the holder for
HELD_ELSEWHERE. -/
def Part.verifyBody (p : Part) (x : Context) (reason : Option Nat) (t : Tally) : Body :=
  [fNum 1 (if reason.isSome then 1 else 0), fNum 1 (reason.getD 0), fNum 1 1, fRemaining (p.remaining t), fNum 1 1,
    p.stateField t] ++ fOpt 1 t.zone?
    ++ (match reason, x.holderRead with
        | some 9, some h => [fNum 1 1, fNum 1 h.port, fNum 1 h.station]
        | _, _ => [fNum 1 0])

/-- The contents of a VERIFY decided by the key's resolution (R148, reasons 1 to 3). -/
def verifyShort (noGo : Bool) (reason : Nat) : Body :=
  [fNum 1 (if noGo then 1 else 0), fNum 1 reason, fNum 1 0, fNum 1 0, fNum 1 0, fNum 1 0]

/-- The lowest-numbered free entry of the checkout table. -/
def Part.freeCheckout (p : Part) : Option Nat :=
  (List.range Config.numCheckouts).find? fun i => (tfind p.engine.checkouts i).isNone

/-- The READ of a CHECKOUT completes (R162). -/
def Part.checkoutRead (p : Part) (c : Nat) (x : Context) (station : Nat) (t : Tally) : Part :=
  match x.carrier with
  | none => p
  | some (slot, r) =>
    if t.account.exhausted then p.refuse c .exhausted
    else if t.account.expired then p.refuse c .expired
    else if reportedState t p.zone.zones ≠ some .open_ ∨ (p.zoneAt (t.zone?.getD 0)).kind ≠ .floor then
      p.refuse c .wrongState
    else
      match p.freeCheckout with
      | none => p.refuse c .noCheckoutSpace
      | some i =>
        let entry : Checkout :=
          { slot := slot, primary := r.primary, port := x.port, station := station, since := p.minuteNow }
        let p := { p with engine.checkouts := tput p.engine.checkouts i entry }
        let p := p.changeRecord (some c) slot { r with checkout := some i }
        p.reply c .ok ([fKey r.primary, fNum 2 i, fNum 1 station, fMinute entry.since,
          fNum 1 (t.zone?.getD 0), fRemaining (p.remaining t), fFlag t.account.warned])

/-- The contents of LIST_BAG (R73). Where the bag was dissolved before the READ was taken, the bag tally is FREE, and R73
says nothing of what the answer carries: zone, class and state are 0 (DESIGN CHOICE, log 51). -/
def Part.listBagBody (p : Part) (x : Context) (t : Tally) : Body :=
  x.head ++ [fNum 1 (t.zone?.getD 0), fNum 1 (t.cls?.getD 0)] ++ p.accountBody t ++ fList (fun k => [fKey k]) x.left

/-- One entry of a LIST_DUE answer (R56). -/
def dueEntryBody (e : DueEntry) : Body :=
  fOwner e.owner e.members ++ [fRemaining e.remaining, fFlag e.warned, fFlag e.expired, fFlag e.exhausted]
    ++ fOptMinute e.expiredAt ++ [fNum 1 e.bakeCount]

def duePageBody (pg : DuePage) : Body :=
  [fNum 4 pg.count, fNum 4 pg.beforeExpiry, fNum 4 pg.beforeWarn, fNum 2 pg.entries.length] ++ fList dueEntryBody pg.entries

/-! ### Continuations by request -/

/-- The code of the ending command in the answers of RETIRE and FORCE_RETIRE: FREE 0, LEAVE 1 (log 17). -/
def endingCode : TallyOp → Nat
  | .leave _ _ => 1
  | _ => 0

/-- A retirement's FREE or LEAVE has completed OK: its slot may return to the free list (R101, R154). -/
def Part.retirementDone (p : Part) (slot : Nat) : Part :=
  if p.slotAt slot = .retiring then
    ({ p with engine.retired := p.engine.retired ++ [slot] }).returnSlot slot
  else p

/-- ENROLL (R146). -/
def Part.enrollDone (p : Part) (c : Nat) (op : TallyOp) (result : Status) : Part :=
  match op, result with
  | .create n k cls _ _, .ok =>
    let t := p.tallyAt n
    p.reply c .ok [fKey k, fNum 2 n, fNum 1 cls, fExposure (p.exposure t), fNum 1 t.account.bakeCount]
  | _, st => p.refuse c st

/-- OPEN with one key (R150). -/
def Part.openDone (p : Part) (c : Nat) (keys : List Key) (zone : Nat) (op : TallyOp) (result : Status) : Part :=
  match op, result, keys with
  | .arm n _, .ok, k :: _ => p.reply c .ok ([fKey k, fNum 1 zone] ++ p.accountBody (p.tallyAt n))
  | _, st, _ => p.refuse c st

/-- OPEN with several keys (R62, R63). -/
def Part.joinDone (p : Part) (c : Nat) (zone : Nat) (op : TallyOp) (result : Status) : Part :=
  match op with
  | .join bag members _ =>
    let b := bag - Config.bagTallyBase
    match result with
    | .ok =>
      let p := p.bagFormed c b members
      let t := p.tallyAt bag
      p.reply c .ok ([fNum 2 b, fNum 1 zone, fNum 2 members.length, fNum 1 (t.cls?.getD 0)] ++ p.accountBody t)
    | st => ({ p with engine.bagFree := p.engine.bagFree.pushHead b }).refuse c st
  | _ => p

/-- The dry credit given, in whole minutes, where the carrier left a DRY zone (R151). -/
def creditBody (credit : Option Nat) : Body := fOpt 4 (credit.map fun g => g / 16)

/-- MOVE (R151), and MOVE of a bag member as a split (R65). -/
def Part.moveDone (p : Part) (c : Nat) (k : Key) (zone : Nat) (cmd : TallyCmd) (result : Status) : Part :=
  match cmd.op, result with
  | .free bag, .ok => p.bagFreed c (bag - Config.bagTallyBase)
  | .free _, _ => p
  | .move n _, .ok =>
    p.reply c .ok ([fKey k, fNum 1 zone] ++ p.accountBody (p.tallyAt n) ++ creditBody cmd.credit)
  | .split bag n _, .ok =>
    let b := bag - Config.bagTallyBase
    let p := p.partMember c b n
    p.reply c .ok ([fKey k, fNum 1 zone] ++ p.accountBody (p.tallyAt n) ++ creditBody cmd.credit
      ++ [fNum 2 (p.memberCount b)])
  | _, st => p.refuse c st

/-- SEAL (R152), and SEAL of a bag member in two commands (R67). The member count left is read at the completion of the SPLIT; R67
names no moment for it (DESIGN CHOICE, log 89). -/
def Part.sealDone (p : Part) (c : Nat) (k : Key) (cmd : TallyCmd) (result : Status) : Part :=
  match cmd.op, result with
  | .free bag, .ok => p.bagFreed c (bag - Config.bagTallyBase)
  | .free _, _ => p
  | .split bag n _, .ok =>
    let b := bag - Config.bagTallyBase
    let p := p.partMember c b n
    let left := p.memberCount b
    (p.updCtx c fun x => { x with head := [fNum 2 left] }).command c [.seal n]
  | .seal n, .ok =>
    let t := p.tallyAt n
    let head := match p.ctx? c with
      | some x => x.head
      | none => []
    p.reply c .ok ([fKey k, fExposure (p.exposure t), fNum 4 (cmd.credit.getD 0 / 16)] ++ flagFields t.account
      ++ [fNum 1 t.account.bakeCount] ++ head)
  | _, st => p.refuse c st

/-- RETIRE (R153, R68). -/
def Part.retireDone (p : Part) (c : Nat) (x : Context) (op : TallyOp) (result : Status) : Part :=
  let answer (q : Part) : Part := q.reply c .ok (x.head ++ [fNum 1 (endingCode op), fNum 1 result.resultCode])
  match op with
  | .leave n bag =>
    if result = .ok then answer ((p.memberGone c (bag - Config.bagTallyBase) n).retirementDone n) else answer p
  | .free n =>
    if Config.bagTallyBase ≤ n then (if result = .ok then p.bagFreed c (n - Config.bagTallyBase) else p)
    else if result = .ok then answer (p.retirementDone n) else answer p
  | _ => p

/-- FORCE_RETIRE (R132). The fault list length is that at the completion of the LEAVE or FREE, a moment R132 leaves open
(DESIGN CHOICE, log 56). -/
def Part.forceRetireDone (p : Part) (c : Nat) (x : Context) (op : TallyOp) (result : Status) : Part :=
  let answer (q : Part) : Part := q.reply c .ok
    (x.head ++ [fNum 1 (endingCode op), fNum 1 result.resultCode, fNum 2 q.engine.faults.length])
  match op with
  | .leave n bag => answer (if result = .ok then p.memberGone c (bag - Config.bagTallyBase) n else p)
  | .free n =>
    if Config.bagTallyBase ≤ n then (if result = .ok then p.bagFreed c (n - Config.bagTallyBase) else p)
    else answer p
  | _ => p

/-- MOVE_GROUP (R71). -/
def Part.moveGroupDone (p : Part) (c b zone : Nat) (x : Context) (op : TallyOp) (result : Status) : Part :=
  match op, result with
  | .split _ n _, .ok =>
    let key : List Key := match tfind x.working n with
      | some r => [r.primary]
      | none => []
    (p.partMember c b n).updCtx c fun x => { x with left := x.left ++ key }
  | .split _ _ _, _ => p
  | .move bag _, .ok =>
    let t := p.tallyAt bag
    p.reply c .ok ([fNum 2 b, fNum 1 zone, fNum 2 t.members] ++ fList (fun k => [fKey k]) x.left ++ p.accountBody t)
  | .free bag, .ok => p.bagFreed c (bag - Config.bagTallyBase)
  | _, st => p.refuse c st (fList (fun k => [fKey k]) x.left)

/-- The completion of a command of a context, by its request. -/
def Part.afterCommand (p : Part) (c : Nat) (x : Context) (cmd : TallyCmd) (result : Status) (page : DuePage) : Part :=
  let read : Tally := match cmd.op with
    | .read n => p.tallyAt n
    | _ => .free
  match x.request with
  | .enroll .. => p.enrollDone c cmd.op result
  | .lookup k =>
    match x.carrier with
    | some (_, r) => p.reply c .ok (p.lookupBody x k r read)
    | none => p
  | .verify _ station need =>
    p.reply c .ok (p.verifyBody x (p.verifyReason x x.port station need read) read)
  | .openKeys zone keys =>
    match cmd.op with
    | .arm .. => p.openDone c keys zone cmd.op result
    | _ => p.joinDone c zone cmd.op result
  | .move k zone _ => p.moveDone c k zone cmd result
  | .seal k => p.sealDone c k cmd result
  | .retire .. => p.retireDone c x cmd.op result
  | .checkout _ station _ => p.checkoutRead c x station read
  | .moveGroup b zone => p.moveGroupDone c b zone x cmd.op result
  | .listBag _ => p.reply c .ok (p.listBagBody x read)
  | .listDue .. => p.reply c .ok (duePageBody page)
  | .forceRetire .. => p.forceRetireDone c x cmd.op result
  | .relabel .. | .release .. | .listCheckouts .. | .hold .. | .unhold .. | .climate .. | .trip .. | .clearTrip ..
  | .bakeStart .. | .bakeStop .. | .status | .classSet .. | .bandSet .. | .weightSet .. | .zoneSet .. | .portSet ..
  | .consignorSet .. | .routeSet .. | .exemptSet .. | .timeSet .. | .faultClear | .releaseAll .. | .restart
  | .format => p

/-- The tallies a command names. -/
def opTallies : TallyOp → List Nat
  | .create n .. | .arm n _ | .move n _ | .seal n | .free n | .read n => [n]
  | .join bag ms _ => bag :: ms
  | .split bag n _ => [bag, n]
  | .leave n bag => [n, bag]
  | .listDue .. => []

/-- The fresh contents of the tallies a command names (R43). -/
def Part.freshOf (p : Part) (op : TallyOp) : List FreshTally :=
  (opTallies op).map fun n =>
    { n := n, tally := p.tallyAt n, exposure := p.exposure (p.tallyAt n), remaining := p.remaining (p.tallyAt n) }

/-- A completed command's result is stored in the context that issued it (R135, R142). -/
def Context.withResult (id : Nat) (r : CmdResult) (x : Context) : Context :=
  { x with
    outstanding := x.outstanding - 1
    commands := x.commands.map fun d => if d.id = id then { d with result := some r } else d }

/-- A tally command completes (R43, R142): its queue entry is freed, its result is stored, and its context goes on. -/
def Part.completeCommand (p : Part) (cmd : TallyCmd) (result : Status) (page : DuePage) : Part :=
  let full := decide (Config.tallyQueueSize ≤ p.tally.queue.length)
  let p := { p with tally.queue := p.tally.queue.filter fun (d : TallyCmd) => d.id != cmd.id }
  let p := p.updCtx cmd.ctx (Context.withResult cmd.id
    { status := result, fresh := p.freshOf cmd.op, credit := cmd.credit, page := page })
  let p := p.entryFreed full
  match p.ctx? cmd.ctx with
  | none => p
  | some x => (p.afterCommand cmd.ctx x cmd result page).finish cmd.ctx

end Sys2Proof.Machine
end

