-- ==== Sys2Proof/Machine/TallyUnit.lean ====
section
/-! DEFINITION. The tally unit's work (02): what a command needs and when it waits, the choice of work, the ten commands, the
steps of walks, the completion of tally writes. -/

namespace Sys2Proof.Machine

/-! ### What a command names and needs (R44) -/

/-- The zone a command brings a tally into, with the tally whose class it keeps. R44 speaks of the tally's class; a JOIN whose
members are of several classes, which its own check refuses at the taking, waits on the list of the first member's class
(DESIGN CHOICE, log 49). -/
def opDestination : TallyOp → Option (Nat × Nat)
  | .arm n z => some (z, n)
  | .move n z => some (z, n)
  | .join _ (n :: _) z => some (z, n)
  | .split _ n (some z) => some (z, n)
  | .join _ [] _ | .split _ _ none | .create .. | .seal _ | .leave _ _ | .free _ | .read _ | .listDue .. => none

/-- The lists a command needs. -/
def Part.opLists (p : Part) (op : TallyOp) : List Nat :=
  ((opTallies op).filterMap fun n => (p.residentAt n).map fun r => listOf r.zone r.cls)
    ++ (match opDestination op with
        | some (z, n) => [listOf z ((p.tallyAt n).cls?.getD 0)]
        | none => [])
    ++ (match op with
        | .listDue z c _ _ => [listOf z c]
        | _ => [])

/-! ### The checks at taking (R40, R41, R47 to R56) -/

/-- R41: the zone is an oven whose bake is RUNNING or COMPLETING. -/
def Part.ovenBusy (p : Part) (z : Nat) : Bool := (p.zoneAt z).kind == .oven && (p.zoneAt z).baking

/-- R40: bringing `n` carriers in would exceed a capacity that is not 0. -/
def Part.zoneFull (p : Part) (z n : Nat) : Bool :=
  (p.zoneAt z).capacity != 0 && decide ((p.zoneAt z).capacity < p.tally.occupancy.getD z 0 + n)

/-- The checks of a destination, the oven before the capacity. -/
def Part.destinationRefusal (p : Part) (z n : Nat) : Option Status :=
  if p.ovenBusy z then some .ovenBusy else if p.zoneFull z n then some .zoneFull else none

def isBagTally (n : Nat) : Bool := Config.bagTallyBase ≤ n

def Tally.isSealed : Tally → Bool
  | .sealed _ _ _ => true
  | .free | .resident _ | .following _ _ => false

def Tally.isFollowing : Tally → Bool
  | .following _ _ => true
  | .free | .resident _ | .sealed _ _ _ => false

/-- The first check of a command that fails at its taking, none when it is accepted. -/
def Part.opRefusal (p : Part) (op : TallyOp) : Option Status :=
  match op with
  | .create n _ cls exposure bakes =>
    if 7 < cls ∨ 1048575 < exposure ∨ 15 < bakes then some .badField
    else if isBagTally n ∨ p.tallyAt n ≠ .free then some .wrongState
    else none
  | .arm n z =>
    if Config.numZones ≤ z then some .badField
    else if !(p.tallyAt n).isSealed then some .wrongState
    else p.destinationRefusal z 1
  | .move n z =>
    if Config.numZones ≤ z then some .badField
    else
      match p.residentAt n with
      | none => some .wrongState
      | some r => if r.zone = z then none else p.destinationRefusal z r.carriers
  | .seal n =>
    if isBagTally n ∨ (p.residentAt n).isNone then some .wrongState else none
  | .join bag ms z =>
    if ms.length < 2 ∨ 16 < ms.length ∨ !(bag :: ms).Nodup ∨ Config.numZones ≤ z then some .badField
    else if !isBagTally bag ∨ p.tallyAt bag ≠ .free ∨ !ms.all (fun n => (p.tallyAt n).isSealed) then some .wrongState
    else if (ms.map fun n => (p.tallyAt n).cls?).eraseDups.length ≠ 1 then some .classMismatch
    else p.destinationRefusal z ms.length
  | .split bag n z =>
    match p.residentAt bag with
    | none => some .wrongState
    | some r =>
      if r.members.getD 0 = 0 ∨ !(p.tallyAt n).isFollowing then some .wrongState
      else
        match z with
        | none => none
        | some z =>
          if Config.numZones ≤ z then some .badField
          else if z = r.zone then none
          else p.destinationRefusal z 1
  | .leave n bag =>
    match p.residentAt bag with
    | none => some .wrongState
    | some r => if r.members.getD 0 = 0 ∨ !(p.tallyAt n).isFollowing then some .wrongState else none
  | .free n =>
    match p.tallyAt n with
    | .sealed _ _ _ => none
    | .resident r => if r.members.getD 0 ≠ 0 then some .wrongState else none
    | .free | .following _ _ => some .wrongState
  | .read _ => none
  | .listDue .. => none

/-! ### Waiting and the choice of work (R44, R45) -/

/-- A command waits while a list it needs is held, but for the refusal of R41, or while an older command names one of its
tallies. `older` are the commands before it in the queue. -/
def Part.opWaits (p : Part) (older : List TallyCmd) (op : TallyOp) : Bool :=
  (p.opRefusal op != some .ovenBusy && (p.opLists op).any fun l => p.listHeld l)
    || older.any fun o => (opTallies op).any fun n => (opTallies o.op).contains n

/-- The oldest command not taken that does not wait. -/
def Part.readyCommandFrom (p : Part) (older : List TallyCmd) : List TallyCmd → Option TallyCmd
  | [] => none
  | c :: rest =>
    if !c.taken && !p.opWaits older c.op then some c else Part.readyCommandFrom p (older ++ [c]) rest

def Part.readyCommand (p : Part) : Option TallyCmd := p.readyCommandFrom [] p.tally.queue

/-- The ready mark to serve: the lowest list number above the last list served, wrapping round. -/
def Part.readyMark (p : Part) : Option Nat :=
  let ready := p.tally.marks.filter fun l => !p.listHeld l
  match ready.find? fun l => p.tally.lastList < l with
  | some l => some l
  | none => ready.head?

/-- The command the tally unit takes next, if a command is what it takes next. -/
def Part.nextCommand (p : Part) : Option TallyCmd :=
  match p.readyCommand, p.readyMark with
  | some c, none => some c
  | some c, some _ => if p.tally.lastSource = .marks then some c else none
  | none, _ => none

/-- The mark the tally unit serves next, if a mark is what it takes next. -/
def Part.nextMark (p : Part) : Option Nat :=
  match p.readyCommand, p.readyMark with
  | none, some l => some l
  | some _, some l => if p.tally.lastSource = .commands then some l else none
  | _, none => none

/-- A ready mark is served (R45). -/
def Part.serveMark (p : Part) (l : Nat) : Part :=
  ({ p with tally.marks := p.tally.marks.erase l, tally.lastList := l, tally.lastSource := .marks }).bringCurrent l

/-! ### Common parts of the commands -/

def Part.addOccupancy (p : Part) (z n : Nat) : Part :=
  { p with tally.occupancy := modifyAt p.tally.occupancy z fun o => o + n }
def Part.subOccupancy (p : Part) (z n : Nat) : Part :=
  { p with tally.occupancy := modifyAt p.tally.occupancy z fun o => o - n }
def Part.addUse (p : Part) (cls : Nat) : Part :=
  { p with tally.useCounts := modifyAt p.tally.useCounts cls fun u => u + 1 }
def Part.subUse (p : Part) (cls : Nat) : Part :=
  { p with tally.useCounts := modifyAt p.tally.useCounts cls fun u => u - 1 }

/-- Changes a command in the queue. -/
def Part.setCmd (p : Part) (id : Nat) (f : TallyCmd → TallyCmd) : Part :=
  { p with tally.queue := p.tally.queue.map fun (c : TallyCmd) => if c.id = id then f c else c }

/-- The acts of a command are done; it completes at once when none of its writes is outstanding (R43, R58). -/
def Part.finishCommand (p : Part) (id : Nat) : Part :=
  let p := p.setCmd id fun c => { c with finished := true }
  if p.tally.writes.any fun w => w.cmd == some id then p
  else
    match p.tally.queue.find? fun c => c.id == id with
    | some c => p.completeCommand c .ok {}
    | none => p

/-- A tally arrives in a zone (R48, R49): its entry marks are the visible meter and, in a DRY zone, the visible dry-minute
counter; the occupancy rises. -/
def Part.arrive (p : Part) (r : Resident) (z : Nat) : Resident :=
  { r with
    zone := z
    entryMark := p.meterAt z r.cls
    entryDry := if (p.zoneAt z).kind = .dry then some (p.zoneAt z).dry else none
    marks := none }

/-- The tally that has arrived is inserted into its list, or the command ends there for a class that is not listed. -/
def Part.insertOrFinish (p : Part) (id n : Nat) (r : Resident) : Part :=
  if p.listedClass r.cls then p.startInsertion id n r else p.finishCommand id

/-- A list is brought current when its class is listed. -/
def Part.bringListed (p : Part) (zone cls : Nat) : Part :=
  if p.listedClass cls then p.bringCurrent (listOf zone cls) else p

/-- Banking, and dry credit on leaving a DRY zone (R28, R42): the account that leaves, and the credit given where the zone
is DRY. -/
def Part.leaving (p : Part) (r : Resident) : Account × Option Nat :=
  let z := p.zoneAt r.zone
  let banked := exposureOf r.acct.banked (p.meterAt r.zone r.cls) r.entryMark
  if z.kind = .dry then
    let credit := if r.acct.expired then 0
      else dryCreditOf (p.classAt r.cls) (z.dry - r.entryDry.getD z.dry) banked
    ({ r.acct with banked := banked - credit }, some credit)
  else ({ r.acct with banked := banked }, none)

/-- A RESIDENT tally leaves its zone for another by the steps of MOVE from the banking on (R49, steps 2 to 6 and the
insertion). -/
def Part.moveOn (p : Part) (id n : Nat) (r : Resident) (z : Nat) : Part :=
  let (acct, credit) := p.leaving r
  let p := p.setCmd id fun c => { c with credit := credit }
  let p := p.unlist n r (some id)
  let p := (p.subOccupancy r.zone r.carriers).addOccupancy z r.carriers
  let r' := p.arrive { r with acct := acct } z
  let p := p.setTally n (.resident r') (some id)
  p.insertOrFinish id n r'

/-! ### The commands -/

/-- CREATE (R47). -/
def Part.takeCreate (p : Part) (id n : Nat) (k : Key) (cls exposure bakes : Nat) : Part :=
  let p := p.setTally n (.sealed (.carrier k) cls { banked := exposure * 16, bakeCount := bakes }) (some id)
  (p.addUse cls).finishCommand id

/-- ARM (R48). -/
def Part.takeArm (p : Part) (id n z : Nat) : Part :=
  match p.tallyAt n with
  | .sealed owner cls acct =>
    let r := p.arrive { owner := owner, cls := cls, acct := acct, zone := z, entryMark := 0 } z
    let p := (p.setTally n (.resident r) (some id)).addOccupancy z 1
    p.insertOrFinish id n r
  | .free | .resident _ | .following _ _ => p

/-- MOVE (R49). -/
def Part.takeMove (p : Part) (id n z : Nat) : Part :=
  match p.residentAt n with
  | none => p
  | some r =>
    if r.zone = z then p.finishCommand id
    else
      let p := p.bringListed r.zone r.cls
      match p.residentAt n with
      | some r => p.moveOn id n r z
      | none => p

/-- SEAL (R50). -/
def Part.takeSeal (p : Part) (id n : Nat) : Part :=
  match p.residentAt n with
  | none => p
  | some r =>
    let p := p.bringListed r.zone r.cls
    match p.residentAt n with
    | none => p
    | some r =>
      let (acct, credit) := p.leaving r
      let p := p.setCmd id fun c => { c with credit := credit }
      let p := (p.unlist n r (some id)).subOccupancy r.zone 1
      (p.setTally n (.sealed r.owner r.cls acct) (some id)).finishCommand id

/-- JOIN (R51): the bag tally is written before its members. Among themselves the members are written in the order in which the
JOIN names them, which R51 and R58 leave open (DESIGN CHOICE, log 74). -/
def Part.takeJoin (p : Part) (id bag : Nat) (ms : List Nat) (z : Nat) : Part :=
  let accounts := ms.filterMap fun n => (p.tallyAt n).acct?
  let cls := ((p.tallyAt (ms.headD 0)).cls?).getD 0
  let r := p.arrive
    { owner := .bag (bag - Config.bagTallyBase), cls := cls, acct := combineAccounts accounts, zone := z, entryMark := 0
      members := some ms.length } z
  let p := (p.setTally bag (.resident r) (some id)).addUse cls
  let p := ms.foldl (fun (q : Part) n =>
    match q.tallyAt n with
    | .sealed owner c _ => q.setTally n (.following owner c) (some id)
    | .free | .resident _ | .following _ _ => q) p
  (p.addOccupancy z ms.length).insertOrFinish id bag r

/-- The place of a split member in its bag's list (R52): a fresh arm sequence and the bag's marks, behind every tally whose
due mark is not greater. -/
def Part.placeSplit (p : Part) (id n : Nat) (r : Resident) : Part :=
  match r.marks with
  | none => p.setTally n (.resident r) (some id)
  | some m =>
    let l := listOf r.zone r.cls
    let (seq, p) := p.takeSeq
    let d := p.listAt l
    let order := insertAfter (p.lastNotAbove d.order m.due) n d.order
    let m := { m with seq := seq, prevLink := prevIn n order, nextLink := nextIn n order }
    let p := p.setTally n (.resident { r with marks := some m }) (some id)
    p.setList l { d with order := order }

/-- SPLIT (R52): the member is written before the bag tally. -/
def Part.takeSplit (p : Part) (id bag n : Nat) (z : Option Nat) : Part :=
  match p.residentAt bag with
  | none => p
  | some b =>
    let p := p.bringListed b.zone b.cls
    match p.residentAt bag, p.tallyAt n with
    | some b, .following owner cls =>
      let p := p.placeSplit id n { b with owner := owner, cls := cls, members := none }
      let p := p.setTally bag (.resident { b with members := b.members.map fun k => k - 1 }) (some id)
      let l := listOf b.zone b.cls
      let p := if b.marks.isSome then (p.relink l (some id)).setCursors l else p
      match z with
      | none => p.finishCommand id
      | some z =>
        if z = b.zone then p.finishCommand id
        else
          match p.residentAt n with
          | some r => p.moveOn id n r z
          | none => p
    | _, _ => p

/-- LEAVE (R53). -/
def Part.takeLeave (p : Part) (id n bag : Nat) : Part :=
  match p.residentAt bag with
  | none => p
  | some b =>
    let p := p.bringListed b.zone b.cls
    match p.residentAt bag with
    | none => p
    | some b =>
      let p := p.subUse ((p.tallyAt n).cls?.getD 0)
      let p := p.setTally n .free (some id)
      let p := p.setTally bag (.resident { b with members := b.members.map fun k => k - 1 }) (some id)
      (p.subOccupancy b.zone 1).finishCommand id

/-- FREE (R54). -/
def Part.takeFree (p : Part) (id n : Nat) : Part :=
  match p.tallyAt n with
  | .sealed _ cls _ => ((p.subUse cls).setTally n .free (some id)).finishCommand id
  | .resident r =>
    let p := p.bringListed r.zone r.cls
    let r := (p.residentAt n).getD r
    let p := (p.unlist n r (some id)).subOccupancy r.zone r.carriers
    ((p.subUse r.cls).setTally n .free (some id)).finishCommand id
  | .free | .following _ _ => p

/-- READ (R55): completes at its taking, with the tally as it then stands. -/
def Part.takeRead (p : Part) (id n : Nat) : Part :=
  let p := match p.residentAt n with
    | some r => p.bringListed r.zone r.cls
    | none => p
  p.finishCommand id

/-- The number of tallies before a cursor. -/
def beforeCursor (order : List Nat) : Option Nat → Nat
  | none => order.length
  | some n => (order.takeWhile (· ≠ n)).length

/-- LIST_DUE (R56): the list is brought current, its counts are read, and the walk from the head begins. Where the list has no
tally, as that of a class of budget 0 never has, R56 does not say when the walk ends: it ends in a LIST_DUE_WALK_STEP of its own
(DESIGN CHOICE, log 67). -/
def Part.takeListDue (p : Part) (id z cls skip want : Nat) : Part :=
  let l := listOf z cls
  let p := p.bringListed z cls
  let d := p.listAt l
  let page : DuePage :=
    { count := d.order.length, beforeExpiry := beforeCursor d.order d.expiryCursor
      beforeWarn := beforeCursor d.order d.warnCursor }
  p.setList l { d with walk := some (.listDue id skip want d.order page) }

/-- A command is taken: refused at once, or its work begins (R43). -/
def Part.takeCommand (p : Part) (c : TallyCmd) (work : Part → Part) : Part :=
  let p := ({ p with tally.lastSource := .commands }).setCmd c.id fun d => { d with taken := true }
  match p.opRefusal c.op with
  | some st => p.completeCommand c st {}
  | none => work p

/-! ### Steps of walks -/

/-- One step of an insertion walk (R36). -/
def Part.insertionStep (p : Part) (l cmd n m due warn : Nat) (pos : Option Nat) : Part :=
  let place (q : Part) : Part :=
    ((q.placeTally l n m due warn pos (some cmd)).releaseList l).finishCommand cmd
  match pos with
  | none => place p
  | some t =>
    if p.dueOf t ≤ due then place p
    else
      match prevIn t (p.listAt l).order with
      | some b => p.setList l { p.listAt l with walk := some (.insertion cmd n m due warn (some b)) }
      | none => ((p.placeTally l n m due warn none (some cmd)).releaseList l).finishCommand cmd

/-- The entry of a LIST_DUE answer for a tally (R56). The remaining minutes are reckoned on the meter visible at the step that
collects the tally; R56 does not say whether they are those of that step or of the taking (DESIGN CHOICE, log 88). -/
def Part.dueEntry (p : Part) (n : Nat) : Option DueEntry :=
  (p.residentAt n).map fun r =>
    { owner := r.owner, members := r.members, remaining := p.remaining (.resident r), warned := r.acct.warned
      expired := r.acct.expired, exhausted := r.acct.exhausted, expiredAt := r.acct.expiredAt
      bakeCount := r.acct.bakeCount }

/-- A LIST_DUE walk ends (R56): the list is released and its command completes with the page. -/
def Part.endListDue (p : Part) (l id : Nat) (page : DuePage) : Part :=
  let p := p.releaseList l
  match p.tally.queue.find? fun c => c.id == id with
  | some c => p.completeCommand c .ok page
  | none => p

/-- One step of a LIST_DUE walk (R56): the next tally is passed or collected. -/
def Part.listDueStep (p : Part) (l id skip want : Nat) (rest : List Nat) (page : DuePage) : Part :=
  match rest with
  | [] => p.endListDue l id page
  | n :: rest =>
    let (skip', page) :=
      if skip = 0 then (0, { page with entries := page.entries ++ (p.dueEntry n).toList }) else (skip - 1, page)
    if rest = [] ∨ want ≤ page.entries.length then p.endListDue l id page
    else p.setList l { p.listAt l with walk := some (.listDue id skip' want rest page) }

/-! ### Tally writes (R58) -/

/-- The tally write in flight completes; the last write of a command whose acts are done completes it. -/
def Part.tallyWritten (p : Part) : Part :=
  match p.tally.writes with
  | [] => p
  | w :: rest =>
    let p := ({ p with mem.tallies := tset p.mem.tallies w.n w.tally .free, tally.writes := rest }).endAccess
    match w.cmd with
    | none => p
    | some id =>
      match p.tally.queue.find? fun c => c.id == id with
      | some c =>
        if c.finished && !p.tally.writes.any (fun v => v.cmd == some id) then p.completeCommand c .ok {} else p
      | none => p

end Sys2Proof.Machine
end

