-- ==== Sys2Proof/Machine/CarrierRequests.lean ====
section
/-! DEFINITION. The performance of the carrier, bag, checkout and hold requests (03, 05, 07, 08). Each `perform…` answers
nothing where the context carries another request. -/

namespace Sys2Proof.Machine

/-- The status of the first check that fails. -/
def firstRefusal (checks : List (Bool × Status)) : Option Status := (checks.find? fun e => e.1).map (·.2)

/-- The status a key's resolution gives in place of a carrier (R104, R107). -/
def resolutionRefusal : Resolution → Option Status
  | .exempt _ _ => some .keyExempt
  | .notFound => some .notFound
  | .recordFault => some .recordFault
  | .chained | .missWait | .fetching | .entry _ _ _ _ | .byTurn => none

/-- The carrier of a slot is checked out, and not by the sender of the request (R149). -/
def Part.heldByOther (p : Part) (port : Nat) (station : Option Nat) (slot : Nat) : Bool :=
  match p.checkoutOf slot with
  | some (_, co) => !fromHolder port station co
  | none => false

/-- A key that has resolved to a carrier: its cache entry; otherwise the status of its outcome. -/
def Part.carrierOf (p : Part) (x : Context) (k : Key) : Except Status CacheEntry :=
  match resolutionRefusal (x.resolutionOf k) with
  | some st => .error st
  | none =>
    match p.entryOf x k with
    | some e => .ok e
    | none => .error .notFound

/-! ### ENROLL, LOOKUP, VERIFY (R146 to R148) -/

/-- ENROLL up to the directory turn (R146). -/
def performEnroll (c : Nat) (p : Part) (x : Context) : Option Part :=
  match x.request with
  | .enroll k cls exposure bakes =>
    some <|
      match firstRefusal
        [(decide (7 < cls ∨ 1048575 < exposure.getD 0 ∨ 15 < bakes.getD 0), .badField),
         ((x.resolutionOf k).isExempt, .keyExempt),
         (!p.permits x.port k.consignor, .notPermitted)] with
      | some st => p.refuse c st
      | none =>
        match x.resolutionOf k with
        | .notFound => (p.askTurn (.request c)).grantTurn
        | .recordFault => p.refuse c .recordFault
        | _ => p.refuse c .exists_
  | _ => none

/-- The reads of performance, and READ of the tally the record's link names (R147, R148, R161). -/
def Part.readAccount (p : Part) (c : Nat) (e : CacheEntry) : Part :=
  let hold := p.holdOf e
  let holder := (p.checkoutOf e.slot).map fun h => h.2
  (p.updCtx c fun x => { x with holdRead := hold, holderRead := holder }).command c [.read (accountTally e.slot e.record)]

/-- LOOKUP (R147). -/
def performLookup (c : Nat) (p : Part) (x : Context) : Option Part :=
  match x.request with
  | .lookup k =>
    some <|
      match x.resolutionOf k with
      | .exempt barred n => p.reply c .ok [fNum 1 1, fFlag barred, fNum 1 n]
      | _ =>
        match p.carrierOf x k with
        | .error st => p.refuse c st
        | .ok e => p.readAccount c e
  | _ => none

/-- VERIFY (R148). -/
def performVerify (c : Nat) (p : Part) (x : Context) : Option Part :=
  match x.request with
  | .verify k _ need =>
    some <|
      if 1048575 < need then p.refuse c .badField
      else
        match x.resolutionOf k with
        | .exempt true _ => p.reply c .ok (verifyShort true 2)
        | .exempt false _ => p.reply c .ok (verifyShort false 1)
        | _ =>
          match p.carrierOf x k with
          | .error .recordFault => p.reply c .ok (verifyShort true 4)
          | .error _ => p.reply c .ok (verifyShort true 3)
          | .ok e => p.readAccount c e
  | _ => none

/-! ### OPEN (R150, R62) -/

/-- OPEN with one key (R150). -/
def performOpenOne (c : Nat) (p : Part) (x : Context) : Option Part :=
  match x.request with
  | .openKeys z [k] =>
    some <|
      if Config.numZones ≤ z then p.refuse c .badField
      else
        match p.carrierOf x k with
        | .error st => p.refuse c st
        | .ok e =>
          match firstRefusal
            [(!p.permits x.port e.record.primary.consignor, .notPermitted),
             (e.record.checkout.isSome, .heldElsewhere),
             ((p.holdOf e).isSome, .onHold)] with
          | some st => p.refuse c st
          | none => p.command c [.arm e.slot z]
  | .openKeys _ [] => some (p.refuse c .badField)
  | _ => none

/-- The check of one key of a multi-key OPEN (R62, step 2). -/
def Part.memberRefusal (p : Part) (x : Context) (k : Key) : Option Status :=
  match p.carrierOf x k with
  | .error st => some st
  | .ok e => firstRefusal
      [(!p.permits x.port e.record.primary.consignor, .notPermitted),
       (e.record.checkout.isSome, .heldElsewhere),
       ((p.holdOf e).isSome, .onHold)]

/-- OPEN with 2 to 16 keys (R62). -/
def performMultiOpen (c : Nat) (p : Part) (x : Context) : Option Part :=
  match x.request with
  | .openKeys z (k₁ :: k₂ :: ks) =>
    let keys := k₁ :: k₂ :: ks
    some <|
      if Config.numZones ≤ z then p.refuse c .badField
      else
        match keys.findIdx? fun k => (p.memberRefusal x k).isSome with
        | some i => p.refuse c ((p.memberRefusal x (keys.getD i k₁)).getD .notFound) [fNum 1 i]
        | none =>
          let slots := keys.filterMap fun k => (p.entryOf x k).map CacheEntry.slot
          if !slots.Nodup then p.refuse c .badField
          else
            match p.engine.bagFree.pop with
            | none => p.refuse c .noBag
            | some (b, rest) =>
              let p := { p with engine.bagFree := rest }
              let p := p.updCtx c fun x => { x with bagTaken := some b }
              p.command c [.join (Config.bagTallyBase + b) slots z]
  | _ => none

/-! ### MOVE, SEAL, RETIRE, RELABEL (R151 to R156) -/

/-- MOVE (R151, R65). -/
def performMove (c : Nat) (p : Part) (x : Context) : Option Part :=
  match x.request with
  | .move k z station =>
    some <|
      if Config.numZones ≤ z then p.refuse c .badField
      else
        match p.carrierOf x k with
        | .error st => p.refuse c st
        | .ok e =>
          match firstRefusal
            [(!p.permits x.port e.record.primary.consignor, .notPermitted),
             (p.heldByOther x.port station e.slot, .heldElsewhere),
             ((p.zoneAt z).kind == .floor && (p.holdOf e).isSome, .onHold)] with
          | some st => p.refuse c st
          | none =>
            match e.record.link with
            | some b => p.command c [.split (Config.bagTallyBase + b) e.slot (some z)]
            | none => p.command c [.move e.slot z]
  | _ => none

/-- SEAL (R152, R67). -/
def performSeal (c : Nat) (p : Part) (x : Context) : Option Part :=
  match x.request with
  | .seal k =>
    some <|
      match p.carrierOf x k with
      | .error st => p.refuse c st
      | .ok e =>
        match firstRefusal
          [(!p.permits x.port e.record.primary.consignor, .notPermitted),
           (e.record.checkout.isSome, .wrongState)] with
        | some st => p.refuse c st
        | none =>
          match e.record.link with
          | some b => p.command c [.split (Config.bagTallyBase + b) e.slot none]
          | none => p.command c [.seal e.slot]
  | _ => none

/-- RETIRE up to the directory turn (R153). -/
def performRetire (c : Nat) (p : Part) (x : Context) : Option Part :=
  match x.request with
  | .retire k _ station =>
    some <|
      match p.carrierOf x k with
      | .error st => p.refuse c st
      | .ok e =>
        match firstRefusal
          [(!p.permits x.port e.record.primary.consignor, .notPermitted),
           (p.heldByOther x.port station e.slot, .heldElsewhere)] with
        | some st => p.refuse c st
        | none => (p.askTurn (.request c)).grantTurn
  | _ => none

/-- RELABEL up to the directory turn (R156). -/
def performRelabel (c : Nat) (p : Part) (x : Context) : Option Part :=
  match x.request with
  | .relabel old new station =>
    some <|
      if (x.resolutionOf old).isExempt || (x.resolutionOf new).isExempt then p.refuse c .keyExempt
      else
        match p.carrierOf x old with
        | .error st => p.refuse c st
        | .ok e =>
          match firstRefusal
            [(!(p.permits x.port e.record.primary.consignor && p.permits x.port new.consignor), .notPermitted),
             (p.heldByOther x.port station e.slot, .heldElsewhere),
             (decide (2 ≤ e.record.aliases.length), .aliasLimit)] with
          | some st => p.refuse c st
          | none => (p.askTurn (.request c)).grantTurn
  | _ => none

/-! ### CHECKOUT and RELEASE (R161, R163) -/

/-- The contents of a HELD_ELSEWHERE refusal of CHECKOUT. -/
def holderFields (co : Checkout) : Body := [fNum 1 co.port, fNum 1 co.station, fMinute co.since]

/-- CHECKOUT of a carrier already held (R161, step 5). -/
def Part.checkoutHeld (p : Part) (c : Nat) (x : Context) (e : CacheEntry) (i : Nat) (co : Checkout) (station watch : Nat) :
    Part :=
  if co.port = x.port ∧ co.station = station then
    p.reply c .ok [fKey co.primary, fNum 2 i, fNum 1 co.station, fMinute co.since]
  else
    let p := if watch = 1 ∧ !e.record.watch.contains x.port then
        p.changeRecord (some c) e.slot { e.record with watch := insertSorted x.port e.record.watch }
      else p
    p.refuse c .heldElsewhere (holderFields co)

/-- CHECKOUT (R161). -/
def performCheckout (c : Nat) (p : Part) (x : Context) : Option Part :=
  match x.request with
  | .checkout k station watch =>
    some <|
      if 255 < station ∨ 1 < watch then p.refuse c .badField
      else
        match p.carrierOf x k with
        | .error st => p.refuse c st
        | .ok e =>
          if !p.permits x.port e.record.primary.consignor then p.refuse c .notPermitted
          else
            match p.checkoutOf e.slot with
            | some (i, co) => p.checkoutHeld c x e i co station watch
            | none => if (p.holdOf e).isSome then p.refuse c .onHold else p.readAccount c e
  | _ => none

/-- RELEASE (R163). -/
def performRelease (c : Nat) (p : Part) (x : Context) : Option Part :=
  match x.request with
  | .release k station =>
    some <|
      if 255 < station then p.refuse c .badField
      else
        match p.carrierOf x k with
        | .error st => p.refuse c st
        | .ok e =>
          match p.checkoutOf e.slot with
          | none => p.refuse c .wrongState
          | some (_, co) =>
            if x.port ≠ 0 ∧ !fromHolder x.port (some station) co then p.refuse c .notHeld
            else
              let p := p.releaseRecord (some c) e.slot e.record .release none
              p.reply c .ok ([fKey e.record.primary] ++ holderFields co ++ [fNum 2 e.record.watch.length])
  | _ => none

/-! ### MOVE_GROUP and the lists (R70, R73, R57, R169) -/

/-- The members of a bag with the cache entries of their keys, or the status of the first that has none (R70). A member whose
key the request never probed counts as NOT_FOUND (DESIGN CHOICE, log 50). -/
def Part.memberEntries (p : Part) (x : Context) : List (Nat × Key) → Except Status (List CacheEntry)
  | [] => .ok []
  | (_, k) :: rest =>
    match p.carrierOf x k with
    | .error st => .error st
    | .ok e =>
      match p.memberEntries x rest with
      | .error st => .error st
      | .ok es => .ok (e :: es)

/-- MOVE_GROUP on a LIVE bag whose members have all resolved (R70, checks 1 to 4, and R71). -/
def Part.moveGroup (p : Part) (c : Nat) (x : Context) (b z : Nat) (es : List CacheEntry) : Part :=
  let bag := Config.bagTallyBase + b
  let t := p.tallyAt bag
  let out := es.filter fun e => e.record.checkout.isSome
  let stay := es.filter fun e => e.record.checkout.isNone
  if es.any fun e => !p.permits x.port e.record.primary.consignor then p.refuse c .notPermitted
  else if t.zone? = some z then
    p.reply c .ok ([fNum 2 b, fNum 1 z, fNum 2 0] ++ fList (fun k => [fKey k]) ([] : List Key) ++ p.accountBody t)
  else if stay = [] then p.refuse c .wrongState
  else if (p.zoneAt z).kind = .floor ∧ ((p.bagAt b).hold.isSome ∨ stay.any fun e => (p.holdOf e).isSome) then
    p.refuse c .onHold
  else p.command c (out.map (fun e => TallyOp.split bag e.slot none) ++ [.move bag z])

/-- MOVE_GROUP (R70). -/
def performMoveGroup (c : Nat) (p : Part) (x : Context) : Option Part :=
  match x.request with
  | .moveGroup b z =>
    some <|
      if Config.numBags ≤ b ∨ Config.numZones ≤ z then p.refuse c .badField
      else if !(p.bagAt b).isLive then p.refuse c .notFound
      else
        match p.memberEntries x (p.bagAt b).members with
        | .error st => p.refuse c st
        | .ok es => p.moveGroup c x b z es
  | _ => none

/-- LIST_BAG (R73): the bag record is read at performance. -/
def performListBag (c : Nat) (p : Part) (x : Context) : Option Part :=
  match x.request with
  | .listBag b =>
    some <|
      if Config.numBags ≤ b then p.refuse c .badField
      else
        match p.bagAt b with
        | .live ms hold created =>
          let head := [fNum 2 b, fMinute created] ++ fOpt 1 hold ++ [fNum 2 ms.length]
          (p.updCtx c fun x => { x with head := head, left := ms.map fun m => m.2 }).command c
            [.read (Config.bagTallyBase + b)]
        | .free | .closing _ _ => p.refuse c .notFound
  | _ => none

/-- LIST_DUE (R57). -/
def performListDue (c : Nat) (p : Part) (x : Context) : Option Part :=
  match x.request with
  | .listDue z cls skip want =>
    some <|
      if Config.numZones ≤ z ∨ Config.numClasses ≤ cls ∨ 65535 < skip ∨ want = 0 ∨ 32 < want then p.refuse c .badField
      else p.command c [.listDue z cls skip want]
  | _ => none

/-- R167: an entry in use matches the filters given. -/
def matchesFilters (port station : Option Nat) (co : Checkout) : Bool :=
  (match port with
    | some i => co.port == i
    | none => true)
  && (match station with
    | some t => co.station == t
    | none => true)

/-- The contents of LIST_CHECKOUTS (R169). -/
def Part.checkoutsBody (p : Part) (port station : Option Nat) (skip want : Nat) : Body :=
  let found := p.engine.checkouts.filter fun (e : Nat × Checkout) => matchesFilters port station e.2
  let listed := (found.drop skip).take want
  [fNum 2 found.length, fNum 2 listed.length] ++ fList (fun (e : Nat × Checkout) =>
    [fNum 2 e.1, fKey e.2.primary, fNum 2 e.2.slot, fNum 1 e.2.port, fNum 1 e.2.station, fMinute e.2.since]) listed

/-- LIST_CHECKOUTS (R169). -/
def performListCheckouts (c : Nat) (p : Part) (x : Context) : Option Part :=
  match x.request with
  | .listCheckouts port station skip want =>
    some <|
      if checkoutsOutOfRange port station skip want then p.refuse c .badField
      else p.reply c .ok (p.checkoutsBody port station skip want)
  | _ => none

/-! ### HOLD and UNHOLD (R112 to R114) -/

/-- CARRIER level: the carrier record changes in the act (R113). -/
def Part.carrierHold (p : Part) (c : Nat) (x : Context) (un : Bool) (k : Key) (reason : Nat) : Part :=
  match p.carrierOf x k with
  | .error st => p.refuse c st
  | .ok e =>
    match holdAfter un reason e.record.hold with
    | none => p.refuse c .wrongState
    | some after =>
      let body := holdAnswer (.carrier k) after e.record.hold
      let p := if un && e.record.hold.isNone then p
        else p.changeRecord (some c) e.slot { e.record with hold := after }
      p.reply c .ok body

/-- BAG level: the bag record changes in the act (R113). -/
def Part.bagHold (p : Part) (c : Nat) (un : Bool) (b reason : Nat) : Part :=
  if Config.numBags ≤ b then p.refuse c .badField
  else
    match p.bagAt b with
    | .live ms hold created =>
      match holdAfter un reason hold with
      | none => p.refuse c .wrongState
      | some after =>
        let body := holdAnswer (.bag b) after hold
        let p := if un && hold.isNone then p else p.changeBag (some c) b (.live ms after created)
        p.reply c .ok body
    | .free | .closing _ _ => p.refuse c .notFound

/-- LOT level: the branch entry is read first (R114). -/
def Part.lotHold (p : Part) (c con lot : Nat) : Part :=
  if 255 < con ∨ 4095 < lot then p.refuse c .badField else p.readLotHold c con lot

def performHoldCarrier (c : Nat) (p : Part) (x : Context) : Option Part :=
  match x.request with
  | .hold (.carrier k) reason => some (p.carrierHold c x false k reason)
  | _ => none

def performHoldBag (c : Nat) (p : Part) (x : Context) : Option Part :=
  match x.request with
  | .hold (.bag b) reason => some (p.bagHold c false b reason)
  | _ => none

def performHoldLot (c : Nat) (p : Part) (x : Context) : Option Part :=
  match x.request with
  | .hold (.lot con lot) _ => some (p.lotHold c con lot)
  | _ => none

def performHoldConsignor (c : Nat) (p : Part) (x : Context) : Option Part :=
  match x.request with
  | .hold (.consignor con) reason => some (if 255 < con then p.refuse c .badField else p.consignorHold c false con reason)
  | _ => none

def performUnholdCarrier (c : Nat) (p : Part) (x : Context) : Option Part :=
  match x.request with
  | .unhold (.carrier k) reason => some (p.carrierHold c x true k reason)
  | _ => none

def performUnholdBag (c : Nat) (p : Part) (x : Context) : Option Part :=
  match x.request with
  | .unhold (.bag b) reason => some (p.bagHold c true b reason)
  | _ => none

def performUnholdLot (c : Nat) (p : Part) (x : Context) : Option Part :=
  match x.request with
  | .unhold (.lot con lot) _ => some (p.lotHold c con lot)
  | _ => none

def performUnholdConsignor (c : Nat) (p : Part) (x : Context) : Option Part :=
  match x.request with
  | .unhold (.consignor con) reason => some (if 255 < con then p.refuse c .badField else p.consignorHold c true con reason)
  | _ => none

end Sys2Proof.Machine
end

