-- ==== Sys2Proof/Machine/SupervisoryRequests.lean ====
section
/-! DEFINITION. The performance of the zone requests (01, 04), of the supervisory requests and STATUS (10), of RELEASE_ALL
(08), RESTART and FORMAT (11), and the dispatch of a context to the performance of its request (R140). -/

namespace Sys2Proof.Machine

/-! ### Zone requests (R15, R16, R18, R78, R82, R191) -/

/-- The answer of the zone unit is the context's (R144). -/
def Part.zoneAnswer (c : Nat) (a : Status × Body × Part) : Part := a.2.2.reply c a.1 a.2.1

def performClimate (c : Nat) (p : Part) (x : Context) : Option Part :=
  match x.request with
  | .climate z t h => some (Part.zoneAnswer c (p.takeClimate z t h))
  | _ => none

def performTrip (c : Nat) (p : Part) (x : Context) : Option Part :=
  match x.request with
  | .trip z => some (Part.zoneAnswer c (p.takeTrip z))
  | _ => none

def performClearTrip (c : Nat) (p : Part) (x : Context) : Option Part :=
  match x.request with
  | .clearTrip z => some (Part.zoneAnswer c (p.takeClearTrip z))
  | _ => none

def performBakeStart (c : Nat) (p : Part) (x : Context) : Option Part :=
  match x.request with
  | .bakeStart z minutes => some (Part.zoneAnswer c (p.takeBakeStart z minutes))
  | _ => none

def performBakeStop (c : Nat) (p : Part) (x : Context) : Option Part :=
  match x.request with
  | .bakeStop z => some (Part.zoneAnswer c (p.takeBakeStop z))
  | _ => none

def performZoneSet (c : Nat) (p : Part) (x : Context) : Option Part :=
  match x.request with
  | .zoneSet z kind capacity fallback stale mode =>
    some (Part.zoneAnswer c (p.takeZoneSet c z kind capacity fallback stale mode))
  | _ => none

/-! ### Tables of the climate model (R189, R190) -/

/-- The ranges of R5. -/
def classInRange (e : ClassEntry) : Bool :=
  decide (e.budget ≤ 1048575 ∧ e.warnMargin ≤ 65535 ∧ e.creditRatio ≤ 31 ∧ e.creditCap ≤ 65535
    ∧ 1 ≤ e.minBake ∧ e.minBake ≤ 2880 ∧ 1 ≤ e.bakeLimit ∧ e.bakeLimit ≤ 15)

/-- The answer of CLASS_SET: the class and the six fields as they stand after the request. R187 and R189 do not say that the
class is carried again (DESIGN CHOICE, log 66). -/
def classBody (cls : Nat) (e : ClassEntry) : Body :=
  [fNum 1 cls, fNum 4 e.budget, fNum 4 e.warnMargin, fNum 1 e.creditRatio, fNum 4 e.creditCap, fNum 2 e.minBake,
    fNum 1 e.bakeLimit]

/-- CLASS_SET (R189). -/
def performClassSet (c : Nat) (p : Part) (x : Context) : Option Part :=
  match x.request with
  | .classSet cls e =>
    some <|
      if 7 < cls ∨ !classInRange e then p.refuse c .badField
      else if p.tally.useCounts.getD cls 0 ≠ 0 then p.refuse c .classInUse
      else
        let p := { p with zone.classes := modifyAt p.zone.classes cls fun _ => e }
        (p.pushWrite (some c) (.setting (.cls cls e))).reply c .ok (classBody cls e)
  | _ => none

/-- BAND_SET (R190): into the pending copy. -/
def performBandSet (c : Nat) (p : Part) (x : Context) : Option Part :=
  match x.request with
  | .bandSet band humidity temperature =>
    some <|
      if 6 < band ∨ 1000 < humidity ∨ temperature < -400 ∨ 1250 < temperature then p.refuse c .badField
      else
        let l : BandLimits := { humidity := humidity, temperature := temperature }
        let p := { p with zone.pendBands := modifyAt p.zone.pendBands band fun _ => l }
        (p.pushWrite (some c) (.setting (.band band l))).reply c .ok
          [fNum 1 band, fNum 2 humidity, fTemp temperature, fFlag true]
  | _ => none

/-- WEIGHT_SET (R190): into the pending copy. -/
def performWeightSet (c : Nat) (p : Part) (x : Context) : Option Part :=
  match x.request with
  | .weightSet band cls w =>
    some <|
      if 7 < band ∨ 7 < cls ∨ 63 < w then p.refuse c .badField
      else
        let p := { p with
          zone.pendWeights := modifyAt p.zone.pendWeights band fun row => modifyAt row cls fun _ => w }
        (p.pushWrite (some c) (.setting (.weight band cls w))).reply c .ok
          [fNum 1 band, fNum 1 cls, fNum 1 w, fFlag true]
  | _ => none

/-! ### Ports, consignors, routing, exempt ranges (R193 to R195) -/

/-- The capability set of a byte (R172). -/
def capsOfByte (b : Nat) : Caps :=
  { station := b.testBit 0, climate := b.testBit 1, quality := b.testBit 2, supervise := b.testBit 3 }

/-- The set of ports of a byte (R172). -/
def portsOfByte (b : Nat) : List Nat := (List.range 8).filter fun i => b.testBit i

/-- What a port does when its settings change (R178): a port that is disabled discards its notice frames. -/
def Port.withSettings (s : PortSettings) (q : Port) : Port :=
  { q with settings := s, notices := if q.settings.enabled && !s.enabled then [] else q.notices }

/-- PORT_SET (R193, R178). -/
def performPortSet (c : Nat) (p : Part) (x : Context) : Option Part :=
  match x.request with
  | .portSet i enable caps =>
    some <|
      if i = 0 ∨ 3 < i ∨ 1 < enable ∨ 7 < caps then p.refuse c .badField
      else
        let s : PortSettings := { enabled := enable == 1, caps := capsOfByte caps }
        let p := p.setPort i (Port.withSettings s)
        (p.pushWrite (some c) (.setting (.port i s))).reply c .ok
          [fNum 1 i, fFlag s.enabled, fCaps s.caps, fNum 2 (p.portAt i).outstanding]
  | _ => none

/-- CONSIGNOR_SET (R193). -/
def performConsignorSet (c : Nat) (p : Part) (x : Context) : Option Part :=
  match x.request with
  | .consignorSet con ports =>
    some <|
      if 255 < con ∨ ports.testBit 0 ∨ 15 < ports then p.refuse c .badField
      else
        let set := portsOfByte ports
        let p := p.setRoot con { p.rootAt con with ports := set }
        (p.pushWrite (some c) (.setting (.consignor con set))).reply c .ok
          [fNum 1 con, fPorts set, fFlag (p.rootAt con).branch.isSome]
  | _ => none

/-- The routing table in an answer (R194): a list of the eight kinds, each with its code and its destination. R194 says only
that the whole table is carried (DESIGN CHOICE, log 66). -/
def routingBody (table : List (Option Nat)) : Body :=
  fList (fun (e : Nat × Option Nat) => fNum 1 e.1 :: (match e.2 with
    | some i => [fNum 1 0, fNum 1 i]
    | none => [fNum 1 1])) (routedCodes.zip table)

/-- ROUTE_SET (R194). -/
def performRouteSet (c : Nat) (p : Part) (x : Context) : Option Part :=
  match x.request with
  | .routeSet entries =>
    some <|
      if entries.any (fun e => (routeIndexOfCode e.1).isNone || !inRange 3 e.2) ∨ !(entries.map (·.1)).Nodup then
        p.refuse c .badField
      else
        let table := entries.foldl (fun t e => match routeIndexOfCode e.1 with
          | some i => modifyAt t i fun _ => e.2
          | none => t) p.port.routing
        let p := { p with port.routing := table }
        (p.pushWrite (some c) (.setting (.routing table))).reply c .ok (routingBody table)
  | _ => none

/-- The RANGE_IN_USE check begins if it may (R108). -/
def Part.beginRange (p : Part) : Part :=
  match p.engine.range with
  | some rc => if p.rangeMayBegin rc then p.rangeFrom rc 0 0 else p
  | none => p

/-- EXEMPT_SET (R195). -/
def performExemptSet (c : Nat) (p : Part) (x : Context) : Option Part :=
  match x.request with
  | .exemptSet n enabled con lot mask answer =>
    some <|
      if 3 < n ∨ 1 < enabled ∨ 255 < con ∨ 4095 < lot ∨ 1048575 < mask ∨ 1 < answer then p.refuse c .badField
      else
        let r : ExemptRange :=
          { enabled := enabled == 1, consignor := BitVec.ofNat 8 con, lot := BitVec.ofNat 12 lot
            mask := BitVec.ofNat 20 mask, barred := answer == 1 }
        if r.enabled then
          ({ p with engine.range := some ({ ctx := c, range := n, proposed := r } : RangeCheck) }).beginRange
        else (p.installRange c n r).reply c .ok (exemptBody n r)
  | _ => none

/-! ### Clock, faults, status (R196, R132, R199, R197) -/

/-- TIME_SET (R196). -/
def performTimeSet (c : Nat) (p : Part) (x : Context) : Option Part :=
  match x.request with
  | .timeSet m =>
    some <|
      let before := p.zone.wallMinute
      let set (q : Part) : Part := { q with zone.wallMinute := some m, zone.timeBase := 0 }
      let body (after : Nat) : Body := fOptMinute before ++ [fMinute after]
      match p.engine.mode, before with
      | .awaitTime, _ => (set p).beginGap.reply c .ok (body m)
      | _, some w => if 60 < minuteJump m w then p.refuse c .timeJump (body w) else (set p).reply c .ok (body m)
      | _, none => (set p).reply c .ok (body m)
  | _ => none

/-- FORCE_RETIRE up to the directory turn (R132). -/
def performForceRetire (c : Nat) (p : Part) (x : Context) : Option Part :=
  match x.request with
  | .forceRetire position slot =>
    some <|
      if 15 < position ∨ Config.numSlots ≤ slot then p.refuse c .badField
      else
        match p.engine.faults[position]? with
        | some f => if f.slot = slot then (p.askTurn (.request c)).grantTurn else p.refuse c .notFound
        | none => p.refuse c .notFound
  | _ => none

/-- FAULT_CLEAR (R199). -/
def performFaultClear (c : Nat) (p : Part) (x : Context) : Option Part :=
  match x.request with
  | .faultClear =>
    some <|
      let body (q : Part) : Body := [fNum 1 q.engine.mode.code, fNum 2 q.engine.faults.length, fNum 4 q.engine.unlisted]
      if p.engine.mode = .readOnly then
        if Config.faultListSize ≤ p.engine.faults.length then p.refuse c .faultsPending (body p)
        else
          let p := { p with engine.mode := .running }
          let p := p.giveModeChange .readOnly .running .faultClear
          p.reply c .ok (body p)
      else p.refuse c .wrongState (body p)
  | _ => none

/-- The number of slots in a state; FREE slots are those not listed. -/
def Part.countSlots (p : Part) (st : SlotState) : Nat := p.engine.slots.countP fun (e : Nat × SlotState) => e.2 == st

def statusPort (q : Port) : Body :=
  [fFlag q.settings.enabled, fCaps q.settings.caps, fNum 2 q.outstanding, fFlag q.requestOverrun, fFlag q.noticeOverrun,
    fNum 1 q.noticeNumber]

def Part.statusZone (p : Part) (i : Nat) (z : Zone) : Body :=
  [fNum 1 z.kind.code, fFlag z.tripped, fFlag z.stale, fNum 1 z.effectiveBand, fNum 4 (p.tally.occupancy.getD i 0),
    fNum 2 z.capacity] ++ differing 2 z.pendCapacity z.capacity ++ [fNum 1 z.bake.code]

def statusTimer : Option BakeTimer → Body
  | none => [fNum 1 0]
  | some t => [fNum 1 1, fNum 1 t.zone, fNum 4 t.remaining]

/-- A group of STATUS that is absent before AWAIT_TIME (R197, log 16). -/
def group (present : Bool) (fields : Body) : Body := if present then fNum 1 1 :: fields else [fNum 1 0]

/-- The contents of STATUS (R197). The entries of the ports, zones and timers, whose number is fixed, follow without a count byte,
which R197 and R172 leave open (DESIGN CHOICE, log 69). The last-advance minute, for which R197 gives no absent form, is an optional
field like the wall minute (DESIGN CHOICE, log 86). -/
def Part.statusBody (p : Part) : Body :=
  let rebuilt := match p.engine.mode with
    | .awaitTime | .running | .readOnly => true
    | .unformatted | .rebuilding _ => false
  let phase : Option Nat := match p.engine.mode with
    | .rebuilding ph => some ph.code
    | .unformatted | .awaitTime | .running | .readOnly => none
  [fNum 1 p.engine.mode.code] ++ fOpt 1 phase ++ fOptMinute p.zone.wallMinute ++ fOptMinute p.zone.lastAdvance
    ++ [fNum 2 p.zone.owed]
    ++ p.port.ports.flatMap statusPort
    ++ group rebuilt [fNum 4 (p.countSlots .live), fNum 4 (Config.numSlots - p.engine.slots.length),
        fNum 4 (p.countSlots .retiring), fNum 4 (p.countSlots .faulted), fNum 4 (p.countSlots .withdrawn)]
    ++ group rebuilt [fNum 2 p.engine.blockFree.size, fNum 2 p.engine.bags.length, fNum 4 p.engine.epoch]
    ++ group rebuilt [fNum 2 p.engine.checkouts.length, fFlag p.engine.releaseAll.isSome]
    ++ group rebuilt ([fNum 2 p.engine.faults.length, fNum 4 p.engine.unlisted]
        ++ fList (fun (e : FaultEntry × Nat) => [fNum 1 e.2, fNum 2 e.1.slot, fKey e.1.key] ++ fOptMinute e.1.minute)
          p.engine.faults.zipIdx)
    ++ group rebuilt (p.zone.zones.zipIdx.flatMap fun e => p.statusZone e.2 e.1)
    ++ group rebuilt (p.zone.timers.flatMap statusTimer)

/-- STATUS (R197). -/
def performStatus (c : Nat) (p : Part) (x : Context) : Option Part :=
  match x.request with
  | .status => some (p.reply c .ok p.statusBody)
  | _ => none

/-! ### RELEASE_ALL (R167, R168) -/

/-- A context that is still to change the checkout table: a CHECKOUT that waits for its READ, a RETIRE or FORCE_RETIRE that
waits for its directory turn. -/
def Part.willChangeTable (p : Part) (c : Nat) (x : Context) : Bool :=
  x.active && (match x.request with
    | .checkout .. => x.outstanding != 0 || x.toIssue != []
    | .retire .. | .forceRetire .. => p.engine.turn.any fun u => u.owner == .request c
    | _ => false)

/-- RELEASE_ALL takes hold of the checkout table (R167). -/
def performReleaseAll (c : Nat) (p : Part) (x : Context) : Option Part :=
  match x.request with
  | .releaseAll port station =>
    some <|
      if !inRange 3 port ∨ !inRange 255 station then p.refuse c .badField
      else
        let awaits := (p.engine.contexts.filter fun (e : Nat × Context) => e.1 != c && p.willChangeTable e.1 e.2).map
          fun (e : Nat × Context) => e.2.performSeq
        let ra : ReleaseAll := { ctx := c, port := port, station := station, awaits := awaits }
        { p with engine.releaseAll := some ra }
  | _ => none

/-- The walk may step: the contexts that were still to change the table have been answered, no record read is awaited, and
no context is active on the slot of a matching entry (R167, R168). -/
def Part.releaseAllReady (p : Part) (ra : ReleaseAll) : Bool :=
  !ra.reading && !(p.engine.contexts.any fun e => e.2.active && ra.awaits.contains e.2.performSeq)
    && (match tfind p.engine.checkouts ra.nextEntry with
      | some co => !(matchesFilters ra.port ra.station co && p.slotActive co.slot)
      | none => true)

/-- The walk passes to the next entry with its counts; after the last, the request is answered (R168). -/
def Part.releaseAllOn (p : Part) (ra : ReleaseAll) : Part :=
  let ra := { ra with nextEntry := ra.nextEntry + 1, reading := false }
  let p := { p with engine.releaseAll := some ra }
  if Config.numCheckouts ≤ ra.nextEntry then
    p.reply ra.ctx .ok (fOpt 1 ra.port ++ fOpt 1 ra.station ++ [fNum 2 ra.released, fNum 2 ra.skipped])
  else p

/-- A matching entry whose record has been read is released (R168). -/
def Part.releaseAllRelease (p : Part) (ra : ReleaseAll) (slot : Nat) (r : CarrierRecord) : Part :=
  (p.releaseRecord (some ra.ctx) slot r .releaseAll none).releaseAllOn { ra with released := ra.released + 1 }

/-- One step of the walk (R168). -/
def Part.releaseAllStep (p : Part) (ra : ReleaseAll) : Part :=
  if Config.numCheckouts ≤ ra.nextEntry then p
  else
    match tfind p.engine.checkouts ra.nextEntry with
    | none => p.releaseAllOn ra
    | some co =>
      if !matchesFilters ra.port ra.station co then p.releaseAllOn ra
      else
        match p.slotAt co.slot with
        | .live =>
          match p.cacheOfSlot co.slot with
          | some (_, e) => p.releaseAllRelease ra co.slot e.record
          | none =>
            ({ p with engine.releaseAll := some { ra with reading := true } }).issueRead .releaseAll (.record co.slot)
        | .faulted | .free | .retiring | .withdrawn => p.releaseAllOn { ra with skipped := ra.skipped + 1 }

/-- The record read of the walk has returned (R168): released, on the record as it now stands, or a record fault with
the entry's primary key. A slot that is no longer LIVE is skipped, also where the record passes its check, which R168 and R129 leave
open (DESIGN CHOICE, log 91). -/
def Part.releaseAllRead (p : Part) (ra : ReleaseAll) (r : Option CarrierRecord) (checked : Bool) : Part :=
  let skip (q : Part) : Part := q.releaseAllOn { ra with skipped := ra.skipped + 1 }
  match tfind p.engine.checkouts ra.nextEntry with
  | none => p.releaseAllOn ra
  | some co =>
    if p.slotAt co.slot ≠ .live then skip p
    else
      match r, checked with
      | some r, true => p.releaseAllRelease ra co.slot (p.newestRecord co.slot r)
      | _, _ => skip (p.declareFault co.slot co.primary fun q => q)

/-! ### RESTART and FORMAT (R208, R209) -/

/-- RESTART: answered in the act; it begins when the answer is queued (`Context.answerWith` marks it). -/
def performRestart (c : Nat) (p : Part) (x : Context) : Option Part :=
  match x.request with
  | .restart => some (p.reply c .ok [fMinute p.minuteNow])
  | _ => none

/-- FORMAT: as RESTART. -/
def performFormat (c : Nat) (p : Part) (x : Context) : Option Part :=
  match x.request with
  | .format => some (p.reply c .ok)
  | _ => none

/-! ### Performance (R140) -/

/-- The performances of all requests; each takes its own request alone. -/
def performances : List (Nat → Part → Context → Option Part) :=
  [performEnroll, performLookup, performVerify, performOpenOne, performMultiOpen, performMove, performSeal, performRetire,
   performRelabel, performCheckout, performRelease, performMoveGroup, performListBag, performListDue,
   performListCheckouts, performHoldCarrier, performHoldBag, performHoldLot, performHoldConsignor, performUnholdCarrier,
   performUnholdBag, performUnholdLot, performUnholdConsignor, performClimate, performTrip, performClearTrip,
   performBakeStart, performBakeStop, performStatus, performClassSet, performBandSet, performWeightSet, performZoneSet,
   performPortSet, performConsignorSet, performRouteSet, performExemptSet, performTimeSet, performForceRetire,
   performFaultClear, performReleaseAll, performRestart, performFormat]

/-- A context whose turn it is to be performed is performed, when its request is of the row that asks (R140). -/
def Part.performRow (p : Part) (c : Nat) (row : Nat → Part → Context → Option Part) : Part :=
  if p.performable c then
    match p.ctx? c with
    | none => p
    | some x =>
      let begun := p.beginPerform c x
      (row c begun.1 begun.2).getD p
  else p

/-- The performance of whatever request a context carries. -/
def performAny (c : Nat) (p : Part) (x : Context) : Option Part := performances.findSome? fun f => f c p x

/-- The context to be performed first, in order of taking. -/
def Part.nextPerformable (p : Part) : Option Nat :=
  ((byArrival p.engine.contexts).find? fun e => p.performable e.1).map (·.1)

/-! ### Taking a request (R136, R198, R201) -/

/-- The status the device mode answers a request code with at its taking; none when the mode serves it. -/
def modeRefusal (m : Mode) (code : Nat) : Option Status :=
  match m with
  | .running => none
  | .readOnly => if code ∈ [1, 4, 5, 6, 7, 8, 9, 10, 11, 15, 16, 20, 34] then some .readOnly else none
  | .awaitTime => if code ∈ [22, 23, 24, 25, 26, 27, 28, 29, 30, 31] then none else some .notReady
  | .unformatted => if code ∈ [22, 36] then none else some .notReady
  | .rebuilding _ => if code = 22 then none else some .notReady

/-- The port whose request queue's head has the lowest arrival sequence. -/
def Part.nextRequest (p : Part) : Option (Nat × Queued) :=
  p.port.ports.zipIdx.foldl (fun best e =>
    match e.1.requests, best with
    | [], b => b
    | q :: _, none => some (e.2, q)
    | q :: _, some (i, b) => if q.arrival < b.arrival then some (e.2, q) else some (i, b)) none

/-- The lowest-numbered free context. -/
def Part.freeContext (p : Part) : Option Nat := (List.range Config.numContexts).find? fun c => (p.ctx? c).isNone

/-- The request with the lowest arrival sequence is taken into the lowest-numbered free context (R136); its chains are
joined, and it leaves CHAINED at once where its gate is open. -/
def Part.takeRequest (p : Part) (c i : Nat) (q : Queued) : Part :=
  let p := p.setPort i fun r => { r with requests := r.requests.drop 1 }
  let x : Context := { port := i, tag := q.tag, arrival := q.arrival, request := q.request }
  let p := p.setCtx c x
  match modeRefusal p.engine.mode (requestCode q.request) with
  | some st => p.refuse c st
  | none => if p.gateOpen c x then p.leaveChained c x else p

end Sys2Proof.Machine
end

