-- ==== Sys2Proof/Machine/PortOps.lean ====
section
/-! DEFINITION. The port unit (09): what a receive framer does with the bytes it holds, request arrivals and their refusals,
the queuing of waiting answers, the end of a turn. -/

namespace Sys2Proof.Machine

/-- Bytes taken from the lane; in HUNT the bytes before the next sync byte are discarded (R173, R174). -/
def Framer.take (f : Framer) (bytes : List Byte) : Framer :=
  let held := f.held ++ bytes
  { f with held := if f.mode = .hunt then held.dropWhile (· ≠ 0xC5#8) else held }

def Part.takeBytes (p : Part) (i : Nat) (bytes : List Byte) : Part :=
  p.setPort i fun q => { q with framer := q.framer.take bytes }

/-- The framer of a port takes a state with the bytes it still holds. -/
def Part.setFramer (p : Part) (i : Nat) (mode : FramerMode) (held : List Byte) : Part :=
  p.setPort i fun q => { q with framer := ({ mode := mode, held := [] } : Framer).take held }

/-- The body of a LINK_FAULT notice (R184); the kind value and tag of the discarded frame are present for cause KIND. -/
def linkFaultBody (cause : LinkCause) (frame : Option (Nat × Nat)) (minute : Option Nat) : Body :=
  [fNum 1 cause.code]
    ++ (match frame with
        | none => [fNum 1 0]
        | some (kind, tag) => [fNum 1 1, fNum 1 kind, fNum 1 tag])
    ++ fOptMinute minute

def Part.giveLinkFault (p : Part) (i : Nat) (cause : LinkCause) (frame : Option (Nat × Nat)) : Part :=
  p.giveOn i .linkFault false (linkFaultBody cause frame p.zone.wallMinute)

/-- The framer loses sync (R174): the frame's bytes are discarded, the notice given, and it hunts. -/
def Part.loseSync (p : Part) (i : Nat) (cause : LinkCause) : Part :=
  let held := (p.portAt i).framer.afterLoss cause
  (p.giveLinkFault i cause none).setFramer i .hunt held

/-- A refusal of the port unit (R177): status alone. -/
def Part.refuseArrival (p : Part) (i code tag : Nat) (st : Status) : Part :=
  p.composeAnswer i { code := code, tag := tag, body := [fNum 1 st.code] } none

/-- A counted request arrival is checked, and accepted at the tail of the request queue with its arrival sequence
(R177). -/
def Part.checkArrival (p : Part) (i code tag : Nat) (body : List Byte) : Part :=
  let s := (p.portAt i).settings
  if i ≠ 0 ∧ !s.enabled then p.refuseArrival i code tag .portDisabled
  else
    match parseRequest code body with
    | none => p.refuseArrival i code tag .badField
    | some r =>
      if !s.caps.allow code then p.refuseArrival i code tag .notPermitted
      else
        let q : Queued := { tag := tag, arrival := p.engine.arrivals, request := r }
        ({ p with engine.arrivals := p.engine.arrivals + 1 }).setPort i fun port =>
          { port with requests := port.requests ++ [q] }

/-- A request arrival (R176): discarded with the request-overrun flag set when 16 are outstanding, else counted. -/
def Part.requestArrives (p : Part) (i code tag : Nat) (body : List Byte) : Part :=
  if Config.outstandingLimit ≤ (p.portAt i).outstanding then p.setPort i fun q => { q with requestOverrun := true }
  else (p.setPort i fun q => { q with outstanding := q.outstanding + 1 }).checkArrival i code tag body

/-- A sound frame has arrived (R173, R175): a request, or a frame of another kind, which is discarded with a
LINK_FAULT. -/
def Part.frameArrives (p : Part) (i kind code tag : Nat) (body rest : List Byte) : Part :=
  let p := p.setFramer i .sync rest
  if kind = 1 then p.requestArrives i code tag body else p.giveLinkFault i .kind (some (kind, tag))

/-- What the bytes held decide is done. -/
def Part.framerDoes (p : Part) (i : Nat) (e : FramerEvent) : Part :=
  match e with
  | .lose cause => p.loseSync i cause
  | .reject rest => p.setFramer i .hunt rest
  | .frame kind code tag body rest => p.frameArrives i kind code tag body rest

/-- The row of a framer's step: bytes are taken, and what they decide is done when it is of the row's sort. -/
def Part.framerRow (p : Part) (i : Nat) (bytes : List Byte) (sort : FramerEvent → Bool) : Part :=
  let p := p.takeBytes i bytes
  match (p.portAt i).framer.event with
  | some e => if sort e then p.framerDoes i e else p
  | none => p

/-- The port whose framer holds bytes that decide something, lowest first. -/
def Part.framerDue (p : Part) : Option (Nat × FramerEvent) :=
  (List.range Config.numPorts).findSome? fun i => ((p.portAt i).framer.event).map fun e => (i, e)

/-- The waiting answer composed earliest takes a free entry of its port's answer queue (R179). -/
def Part.queueWaiting (p : Part) (i : Nat) : Part :=
  match (p.portAt i).waitingAnswers with
  | [] => p
  | w :: rest =>
    if (p.portAt i).answers.length < Config.answerQueueSize then
      (p.setPort i fun q => { q with waitingAnswers := rest }).queueAnswer i w.answer w.ctx
    else p

/-- A port with a waiting answer and room for it. -/
def Part.answerDue (p : Part) : Option Nat :=
  (List.range Config.numPorts).find? fun i =>
    !(p.portAt i).waitingAnswers.isEmpty && decide ((p.portAt i).answers.length < Config.answerQueueSize)

/-- The last byte of a turn has been sent: the next turn begins (R180). -/
def Part.turnDone (p : Part) (i : Nat) : Part :=
  match (p.portAt i).turn with
  | some _ => p.setPort i fun q => ({ q with turn := none }).beginTurn
  | none => p

end Sys2Proof.Machine
end

