-- ==== Sys2Proof/Machine/Rebuild.lean ====
section
/-! DEFINITION. Starts and the rebuild (11): what each start leaves, the phases CLEARING, LOAD_CONFIG, LOAD_ZONES,
SCAN_DIRECTORY and SCAN_TALLIES. -/

namespace Sys2Proof.Machine

/-! ### What an interruption leaves in the record memory (R134, R202, R209) -/

/-- The write in flight at an interruption has landed whole or not at all: a free value (log 9). The write of a meter advance is
lost with the advance (R21, R208). -/
def Part.landInFlight (p : Part) : Part :=
  if Config.writeLands p.free then
    match p.path.inFlight with
    | some .write =>
      match p.path.queue with
      | w :: _ => { p with mem := p.mem.write w.body }
      | [] => p
    | some .tally =>
      match p.tally.writes with
      | w :: _ => { p with mem.tallies := tset p.mem.tallies w.n w.tally .free }
      | [] => p
    | some (.zone z r) => { p with mem.meters.zones := modifyAt p.mem.meters.zones z fun _ => r }
    | some (.advance _ _) | some (.read _) | none => p
  else p

/-- The record memory after the first `k` steps of CLEARING (R209). -/
def RecordMemory.cleared (m : RecordMemory) (k : Nat) : RecordMemory :=
  { signature := if k = 0 then m.signature else decide (7 ≤ k)
    meters := if 2 ≤ k then {} else m.meters
    tallies := if 3 ≤ k then [] else m.tallies
    roots := if 4 ≤ k then [] else m.roots
    bags := if 5 ≤ k then [] else m.bags
    settings := if 6 ≤ k then {} else m.settings
    blocks := m.blocks
    records := m.records }

/-- An interruption: the access in flight is abandoned, and a CLEARING stands where it had come to, with the signature not
valid and short of its last step (R209, log 10). -/
def Part.interrupted (p : Part) : Part :=
  let p := p.landInFlight
  let p := if p.engine.mode = .rebuilding .clearing then
      { p with mem := p.mem.cleared (1 + Config.clearingSteps p.free % 6) }
    else p
  { p with free := p.free + 1 }

/-- The part without its on-chip state: the record memory, the pins and the model's own count remain. -/
def Part.blank (p : Part) (power resetLine : Bool) : Part :=
  { power := power, resetLine := resetLine, lines := p.lines, mem := p.mem, free := p.free }

/-- Power-on or the release of the reset line (R202). -/
def Part.powerOn (p : Part) : Part := p.interrupted.blank true false

/-- What a port keeps across RESTART and FORMAT (R186). -/
def Port.kept (i : Nat) (q : Port) : Port :=
  { framer := q.framer, answers := q.answers, notices := q.notices, noticeNumber := q.noticeNumber, turn := q.turn
    lastTurn := q.lastTurn, requestOverrun := q.requestOverrun, noticeOverrun := q.noticeOverrun
    settings := if i = 0 then { caps := { supervise := true } } else {} }

/-- RESTART or FORMAT begins (R208, R209): the wall minute (RESTART), the time base and what the ports keep stay. -/
def Part.restart (p : Part) (kind : StartKind) (mode : Mode) (minute : Option Nat) : Part :=
  let q := p.interrupted
  let b := q.blank true false
  { b with
    zone.wallMinute := minute
    zone.timeBase := q.zone.timeBase
    port.ports := q.port.ports.mapIdx Port.kept
    engine.mode := mode
    engine.startKind := kind }

/-! ### LOAD_CONFIG (R203) -/

def ZoneSettings.load (s : ZoneSettings) (z : Zone) : Zone :=
  { z with
    kind := s.kind, capacity := s.capacity, fallback := s.fallback, staleLimit := s.staleLimit, lineMode := s.lineMode
    pendCapacity := s.capacity, pendFallback := s.fallback, pendStaleLimit := s.staleLimit }

/-- Every setting is loaded into the block that owns it. -/
def Part.loadSettings (p : Part) : Part :=
  let s := p.mem.settings
  { p with
    zone.classes := s.classes
    zone.bands := s.bands
    zone.pendBands := s.bands
    zone.weights := s.weights
    zone.pendWeights := s.weights
    zone.zones := p.zone.zones.mapIdx fun i z => (s.zones.getD i {}).load z
    port.ports := p.port.ports.mapIdx fun i q => { q with settings := s.ports.getD i {} }
    port.routing := s.routing
    engine.exempt := s.exempt
    engine.roots := s.perms.foldl (fun t e => tset t e.1 ({ tget t e.1 {} with ports := e.2 } : RootEntry) {})
      p.engine.roots }

/-- LOAD_CONFIG (R203). -/
def Part.loadConfig (p : Part) : Part :=
  if p.mem.signature then
    let p := p.loadSettings
    { p with engine.mode := .rebuilding .loadZones }
  else
    let p := { p with engine.mode := .unformatted }
    p.giveModeChange (.rebuilding .loadConfig) .unformatted .noSignature

/-! ### LOAD_ZONES (R204, R91) -/

/-- A zone as the meter area holds it, its bake ended. -/
def Zone.loaded (r : ZoneRecord) (z : Zone) : Zone :=
  { z with meters := r.meters, metersComputed := r.meters, dry := r.dry, dryComputed := r.dry, tripLatch := r.tripLatch
           bake := .idle }

/-- A bake recorded RUNNING or COMPLETING is ended with its notice, and the zone record written back IDLE (R91). -/
def Part.endLoadedBake (p : Part) (z : Nat) (r : ZoneRecord) : Part :=
  let abort (t m : Nat) : Part :=
    (p.giveRouted .bakeAborted (bakeAbortedBody z .start t m (m - r.remaining) p.zone.wallMinute)).pushZoneWrite z
  match r.bake with
  | .idle => p
  | .running t m => abort t m
  | .completing t m => abort t m

/-- LOAD_ZONES (R204): the meter area is loaded, bakes are ended, and every condition line is sampled. The bakes end in
ascending zone number, an order that R24, R91 and R204 leave open (DESIGN CHOICE, log 60). -/
def Part.loadZones (p : Part) : Part :=
  let area := p.mem.meters
  let p := { p with
    zone.zones := p.zone.zones.mapIdx fun i z => z.loaded (area.zones.getD i {})
    zone.lastAdvance := area.last }
  let p := (List.range Config.numZones).foldl (fun (q : Part) z => q.endLoadedBake z (area.zones.getD z {})) p
  { p with
    zone.zones := p.zone.zones.mapIdx fun i z => { z with lineLevel := p.lines.getD i false }
    zone.linesTaken := true
    engine.mode := .rebuilding .scanDirectory }

/-! ### SCAN_DIRECTORY (R205, R75, R115, R134) -/

/-- A leaf entry found by the scan: its key, and the slot it names. -/
abbrev Found := Key × Nat

def Part.memBranch (p : Part) (b : Nat) : Table BranchEntry := Block.branches (tget p.mem.blocks b (.branch []))
def Part.memLeaf (p : Part) (l : Nat) : Table LeafEntry := Block.leaves (tget p.mem.blocks l (.leaf []))

/-- The branch table of a block, and a leaf table, as the write stream and the memory leave them now: the entries of the
memory, with those the scan has changed. -/
def Part.branchTable (p : Part) (b : Nat) : Table BranchEntry :=
  (p.memBranch b).map fun (e : Nat × BranchEntry) => (e.1, p.branchNow b e.1)
def Part.leafTable (p : Part) (l : Nat) : Table LeafEntry :=
  ((p.memLeaf l).map fun (e : Nat × LeafEntry) => (e.1, p.leafNow l e.1)).filter fun e => e.2 != .empty

/-- Every leaf entry that names a slot, in ascending order of key: the order in which the scan finds them, which R134 leaves
open (DESIGN CHOICE, log 58). -/
def Part.leafEntries (p : Part) : List Found :=
  p.engine.roots.flatMap fun (re : Nat × RootEntry) =>
    match re.2.branch with
    | none => []
    | some b => (p.branchTable b).flatMap fun (be : Nat × BranchEntry) =>
      match be.2.leaf with
      | none => []
      | some l => (p.leafTable l).filterMap fun (le : Nat × LeafEntry) => le.2.slot?.map fun s =>
        ((⟨BitVec.ofNat 8 re.1, BitVec.ofNat 12 be.1, BitVec.ofNat 12 le.1⟩ : Key), s)

/-- The live count a branch entry has by its leaf table, and a root entry by its branch table. -/
def Part.liveOfBranch (p : Part) (e : BranchEntry) : Nat :=
  match e.leaf with
  | none => 0
  | some l => (p.leafTable l).length
def Part.liveOfRoot (p : Part) (e : RootEntry) : Nat :=
  match e.branch with
  | none => 0
  | some b => (p.branchTable b).countP fun (e : Nat × BranchEntry) => e.2.leaf.isSome

/-- Step 3's recount of the branch live counts; a count that differs from the one held is written (log 41). It is made before the
slots are judged, and the removals of R98 keep the counts true from there on; these writes therefore go ahead of those of the
judgments, by ascending consignor and then lot, an order that R205 leaves open (DESIGN CHOICE, log 76). -/
def Part.recountBranches (p : Part) : Part :=
  p.engine.roots.foldl (fun (q : Part) (re : Nat × RootEntry) =>
    match re.2.branch with
    | none => q
    | some b => (q.branchTable b).foldl (fun (q : Part) (be : Nat × BranchEntry) =>
        let live := q.liveOfBranch be.2
        if be.2.live = live then q else q.pushWrite none (.branch b be.1 { be.2 with live := live })) q) p

/-- The recount of the root live counts, which are on-chip alone. -/
def Part.recountRoots (p : Part) : Part :=
  p.engine.roots.foldl (fun (q : Part) (re : Nat × RootEntry) =>
    q.setRoot re.1 { re.2 with live := q.liveOfRoot re.2 }) p

/-- The blocks that a root or branch entry refers to, ascending. -/
def Part.usedBlocks (p : Part) : List Nat :=
  p.engine.roots.foldl (fun (used : List Nat) (re : Nat × RootEntry) =>
    match re.2.branch with
    | none => used
    | some b => (p.branchTable b).foldl (fun (used : List Nat) (be : Nat × BranchEntry) =>
        match be.2.leaf with
        | none => used
        | some l => insertSorted l used) (insertSorted b used)) []

/-- The rows of R205 for a record that passes its check, in order, on the record as it evolves (log 22). `entries` are the
keys of the leaf entries that name the slot. Where several of them are removed, they go by ascending key within a row, an order that
R205 leaves open (DESIGN CHOICE, log 77). The removals' writes join the stream first and the record's last: R205 only has them
written with it (DESIGN CHOICE, log 87). -/
def Part.judgeRecord (p : Part) (slot : Nat) (r : CarrierRecord) (entries : List Key) : Part :=
  let own := r.primary :: r.aliases
  let stray := entries.filter fun k => !own.contains k
  let p := stray.foldl (fun (q : Part) k => q.removeEntryOf none slot k) p
  let t := tget p.mem.tallies slot .free
  let p := if t = .free then
      (entries.filter fun k => own.contains k).foldl (fun (q : Part) k => q.removeEntryOf none slot k) p
    else p
  let unlinked := match r.link with
    | none => false
    | some b => !t.isFollowing || !(match tget p.mem.tallies (Config.bagTallyBase + b) .free with
        | .resident _ => true
        | .free | .sealed _ _ _ | .following _ _ => false)
  let r' := if unlinked then { r with link := none } else r
  let p := if r'.link.isNone && t.isFollowing then { p with tally.orphans := p.tally.orphans ++ [slot] } else p
  let held := r.checkout.isSome || !r.watch.isEmpty
  let p := if held then p.giveReleased r .start none none else p
  let r' := if held then { r' with checkout := none, watch := [] } else r'
  if r' = r then p else p.pushWrite none (.record slot ⟨r', checkWordOf slot r'⟩)

/-- One slot is taken (R205, second step; R134). -/
def Part.scanSlot (p : Part) (slot : Nat) (entries : List Key) : Part :=
  match p.mem.value (.record slot) with
  | .record (some r) true => p.judgeRecord slot r entries
  | .record _ _ | .branch _ | .leaf _ =>
    match entries with
    | [] => p
    | k :: _ =>
      let position := if p.engine.faults.length < Config.faultListSize then some p.engine.faults.length else none
      (p.enterFault slot k).giveFaultNotice slot k position

/-- The record of a slot as the scan leaves it. -/
def Part.recordNow (p : Part) (slot : Nat) : Option CarrierRecord :=
  match (streamValue p.stream (.record slot)).getD (p.mem.value (.record slot)) with
  | .record r true => r
  | .record _ false | .branch _ | .leaf _ => none

/-- The members of a bag by the records of the LIVE slots, in ascending slot order (R75). -/
def Part.rebuiltMembers (p : Part) (live : List Nat) (b : Nat) : List (Nat × Key) :=
  live.filterMap fun s => match p.recordNow s with
    | some r => if r.link = some b then some (s, r.primary) else none
    | none => none

/-- A bag record as the rebuild leaves it (R75): LIVE with its rebuilt list, or FREE. A LIVE bag whose record in the bag
area is FREE has a created minute that nothing states (log 11). -/
def Part.rebuiltBag (p : Part) (live : List Nat) (b : Nat) : BagRecord :=
  match p.rebuiltMembers live b with
  | [] => .free
  | ms =>
    match tget p.mem.bags b .free with
    | .live _ h created => .live ms h created
    | .closing h created => .live ms h created
    | .free => .live ms none (Config.unstatedMinute p.free)

/-- The bags that may be other than FREE after the scan: those of the bag area and those a record links to. -/
def Part.bagCandidates (p : Part) (live : List Nat) : List Nat :=
  let linked := live.filterMap fun s => (p.recordNow s).bind fun r => r.link
  (p.mem.bags.map (·.1) ++ linked).foldl (fun bs b => insertSorted b bs) []

/-- The bag table and the free bag list are rebuilt; a record that differs from the bag area's is written (R74, R75, log 48). These
writes go by ascending bag number, which R75 and R205 leave open (DESIGN CHOICE, log 72). -/
def Part.rebuildBags (p : Part) (live : List Nat) : Part :=
  let p := (p.bagCandidates live).foldl (fun (q : Part) b =>
    let r := p.rebuiltBag live b
    let q := q.setBag b r
    if r = tget q.mem.bags b .free then q else q.pushWrite none (.bag b r)) p
  { p with engine.bagFree := FreeList.outside 0 Config.numBags (p.engine.bags.map (·.1)) }

/-- SCAN_DIRECTORY (R205). -/
def Part.scanDirectory (p : Part) : Part :=
  let p := { p with engine.roots := p.mem.roots.foldl (fun t (e : Nat × RootCopy) =>
      tset t e.1 ({ tget t e.1 {} with branch := e.2.branch, hold := e.2.hold } : RootEntry) {}) p.engine.roots }
  let p := p.recountBranches.recountRoots
  let found := p.leafEntries
  let named := found.foldl (fun ss e => insertSorted e.2 ss) []
  let p := named.foldl (fun (q : Part) s =>
    q.scanSlot s ((found.filter fun e => e.2 == s).map (·.1))) p
  let still := p.leafEntries.foldl (fun ss e => insertSorted e.2 ss) []
  let p := { p with engine.blockFree := FreeList.outside 0 Config.numBlocks p.usedBlocks }
  let p := { p with
    engine.slots := still.foldl (fun (t : Table SlotState) (s : Nat) => tput t s (if p.slotAt s = SlotState.faulted then SlotState.faulted else .live)) []
    engine.slotFree := FreeList.outside 0 Config.numSlots still }
  let live := still.filter fun s => p.slotAt s = .live
  let p := p.rebuildBags live
  { p with engine.mode := .rebuilding .scanTallies }

/-! ### SCAN_TALLIES (R206, R207) -/

/-- An orphaned follower booked as expired (R206). -/
def orphanTally (c : ClassEntry) (owner : Owner) (cls minute : Nat) : Tally :=
  if c.budget = 0 then .sealed owner cls {}
  else .sealed owner cls { banked := c.budget * 16, warned := true, expiredAt := some minute }

/-- A tally as the reconciliation leaves it (R206), by the first row that applies. -/
def Part.reconciled (p : Part) (n : Nat) (t : Tally) : Tally :=
  if isBagTally n then
    match p.bagAt (n - Config.bagTallyBase), t with
    | .live ms _ _, .resident r => .resident { r with members := some ms.length }
    | .live _ _ _, t => t
    | .free, _ => .free
    | .closing _ _, _ => .free
  else if p.slotAt n = .free then .free
  else
    match t with
    | .following owner cls =>
      if p.tally.orphans.contains n then orphanTally (p.classAt cls) owner cls p.expiryMinute else t
    | .free | .sealed _ _ _ | .resident _ => t

/-- Each tally is reconciled with its owner; a tally that changes is written. The changes and their writes go by ascending tally
number, which R206 and R58 leave open (DESIGN CHOICE, log 71). -/
def Part.reconcileTallies (p : Part) : Part :=
  p.tally.table.foldl (fun (q : Part) (e : Nat × Tally) =>
    let t := p.reconciled e.1 e.2
    if t = e.2 then q else q.setTally e.1 t none) p

/-- The marks, arm sequence and links a tally held in the tally area are not used. -/
def Tally.withoutMarks : Tally → Tally
  | .resident r => .resident { r with marks := none }
  | t => t

/-- Use counts and occupancies are recounted (R189, R40). -/
def Part.recount (p : Part) : Part :=
  { p with
    tally.useCounts := (List.range Config.numClasses).map fun c =>
      p.tally.table.countP fun (e : Nat × Tally) => e.2.cls? == some c
    tally.occupancy := (List.range Config.numZones).map fun z =>
      (p.tally.table.map fun (e : Nat × Tally) => match e.2 with
        | .resident r => if r.zone = z then r.carriers else 0
        | .free | .sealed _ _ _ | .following _ _ => 0).sum }

/-- A capacity in force below the recomputed occupancy is raised to it; the loaded value stays pending (R206). -/
def Part.raiseCapacities (p : Part) : Part :=
  { p with zone.zones := p.zone.zones.mapIdx fun i z =>
      let o := p.tally.occupancy.getD i 0
      { z with capacity := if z.capacity ≠ 0 ∧ z.capacity < o then o else z.capacity } }

/-- A tally is inserted at once where the walk of R36 would place it. -/
def Part.insertNow (p : Part) (n : Nat) : Part :=
  match p.residentAt n with
  | none => p
  | some r =>
    let l := listOf r.zone r.cls
    let (due, warn) := p.marksOf r
    p.placeTally l n (p.meterOf l) due warn (p.lastNotAbove (p.listAt l).order due) none

/-- The RESIDENT tallies of a list, those with the expired flag first, each in ascending tally number (R206). -/
def Part.residentsOf (p : Part) (l : Nat) : List Nat :=
  let here : List (Nat × Resident) := p.tally.table.filterMap fun (e : Nat × Tally) => match e.2 with
    | .resident r => if listOf r.zone r.cls = l then some (e.1, r) else none
    | .free | .sealed _ _ _ | .following _ _ => none
  ((here.filter fun e => e.2.acct.expired) ++ here.filter fun e => !e.2.acct.expired).map (·.1)

/-- The due lists are re-formed in ascending list number (R206). -/
def Part.reformLists (p : Part) : Part :=
  (List.range Config.numLists).foldl (fun (q : Part) l =>
    if q.listedClass (l % 8) then (q.residentsOf l).foldl (fun (q : Part) n => q.insertNow n) q else q) p

/-- The tally area is read and reconciled; the marks, arm sequences and links it held are dropped (R206). These reads, which R58 and
R128 name, are made within the row, and take no turn at the arbiter (DESIGN CHOICE, log 90). -/
def Part.loadTallies (p : Part) : Part :=
  let p := ({ p with tally.table := p.mem.tallies }).reconcileTallies
  { p with tally.table := p.tally.table.map fun (e : Nat × Tally) => (e.1, e.2.withoutMarks)
           tally.orphans := [] }

/-- After RESTART the gap charge begins, otherwise the part waits for its time (R206). -/
def Part.afterScan (p : Part) : Part :=
  match p.engine.startKind with
  | .restart => p.beginGap
  | .powerOn | .format =>
    ({ p with engine.mode := .awaitTime }).giveModeChange (.rebuilding .scanTallies) .awaitTime .rebuilt

/-- SCAN_TALLIES (R206). -/
def Part.scanTallies (p : Part) : Part :=
  let p := p.loadTallies.recount.raiseCapacities.reformLists
  ({ p with free := p.free + 1 }).afterScan

/-- CLEARING (R209): the seven steps, then the phases from LOAD_CONFIG on. -/
def Part.clear (p : Part) : Part :=
  { p with mem := p.mem.cleared 7, engine.mode := .rebuilding .loadConfig }

end Sys2Proof.Machine
end

