-- ==== Sys2Proof/Machine/Urgent.lean ====
section
/-! DEFINITION. What the manual puts in the act of another step (log 1): each such step on its own, and `settled`, which
runs those that are due before any other step is taken. -/

namespace Sys2Proof.Machine

/-! ### The steps -/

/-- RESTART begins (R208). -/
def Part.beginRestart (p : Part) : Part := p.restart .restart (.rebuilding .loadConfig) p.zone.wallMinute

/-- FORMAT begins (R209). -/
def Part.beginFormat (p : Part) : Part := p.restart .format (.rebuilding .clearing) none

/-- A start whose answer has been queued begins. -/
def urgentStart (p : Part) : Option Part :=
  match p.engine.startOwed with
  | some .restart => some p.beginRestart
  | some .format => some p.beginFormat
  | some .powerOn | none => none

/-- A bake timer at 0 completes its bake (R80). -/
def urgentBake (p : Part) : Option Part := p.bakeDue.map fun z => p.completeBake z

/-- The oldest context in MISS_WAIT that has still to probe again does so (R123, step 3). -/
def urgentProbe (p : Part) : Option Part :=
  match p.path.owedProbes with
  | [] => none
  | (c, k) :: rest => some (({ p with path.owedProbes := rest }).probeOnce c k)

/-- The oldest held write takes the free entry of the queue; a context whose last held write it was is answered (R125). -/
def Part.queueHeld (p : Part) : Part :=
  match p.path.held with
  | [] => p
  | w :: rest =>
    let p := ({ p with path.queue := p.path.queue ++ [w], path.held := rest }).arbitrate
    match w.ctx with
    | some c => p.finish c
    | none => p

def urgentHeld (p : Part) : Option Part :=
  if p.path.held ≠ [] ∧ p.path.queue.length < Config.writeQueueSize then some p.queueHeld else none

/-- A waiting answer takes a free entry of its answer queue (R179). -/
def urgentAnswer (p : Part) : Option Part := p.answerDue.map fun i => p.queueWaiting i

/-- The directory turn is granted to the update at its head (R141). -/
def urgentTurn (p : Part) : Option Part :=
  match p.engine.turn with
  | u :: _ => if u.begun then none else some p.grantTurn
  | [] => none

/-- A RANGE_IN_USE check that may begin begins (R108). -/
def urgentRange (p : Part) : Option Part :=
  match p.engine.range with
  | some rc => if p.rangeMayBegin rc then some p.beginRange else none
  | none => none

/-- The bytes a framer holds decide something (R173, R174). -/
def urgentFramer (p : Part) : Option Part := p.framerDue.map fun e => p.framerDoes e.1 e.2

/-- A context that may be performed is performed (R140). -/
def urgentPerform (p : Part) : Option Part := p.nextPerformable.map fun c => p.performRow c performAny

/-! ### All of them -/

/-- The sorts of urgent step in the order in which they are looked at (log 25). -/
def urgentSteps : List (Part → Option Part) :=
  [urgentStart, urgentProbe, urgentBake, urgentHeld, urgentAnswer, urgentTurn, urgentRange, urgentFramer, urgentPerform]

/-- One urgent step, if any is due. -/
def urgentStep (p : Part) : Option Part := urgentSteps.findSome? fun f => f p

/-- Urgent steps until none is due. -/
def runUrgent : Nat → Part → Part
  | 0, p => p
  | n + 1, p =>
    match urgentStep p with
    | none => p
    | some q => runUrgent n q

/-- The part with every urgent step done; a part without supply or held in reset does nothing. -/
def Part.settled (p : Part) : Part := if p.alive then runUrgent Config.urgentFuel p else p

/-- The part as an urgent row finds it: a start that is owed comes before anything else. -/
def Part.started (p : Part) : Part := if p.engine.startOwed.isSome then p.settled else p

/-- The part as an urgent row other than MISS_WAIT_PROBE finds it: the probes that the end of a walk owes belong to that
end's act (R123). -/
def Part.probed (p : Part) : Part := p.started.makeProbes

end Sys2Proof.Machine
end

