-- ==== Sys2Proof/Machine/Act.lean ====
section
/-! DEFINITION. How the meaning of a row stands on the state: what runs before it, what a part without supply does, and the
faults of operands that name no unit of the part. The queue of commands is never touched. -/

namespace Sys2Proof.Machine

/-- A row that waits its turn: every urgent step is done first (log 1). A part that takes no steps keeps its state. -/
def State.act (s : State) (f : Part → Part) : Host.Outcome State Fault Refusal :=
  .next { s with part := if s.part.alive then f s.part.settled else s.part }

/-- A row that is itself an urgent step: a start that is owed comes before it, and the probes of an ended walk. -/
def State.now (s : State) (f : Part → Part) : Host.Outcome State Fault Refusal :=
  .next { s with part := if s.part.alive then f s.part.probed else s.part }

/-- The row that makes such a probe. -/
def State.probing (s : State) (f : Part → Part) : Host.Outcome State Fault Refusal :=
  .next { s with part := if s.part.alive then f s.part.started else s.part }

/-- A row of a request context. -/
def State.performing (s : State) (c : Nat) (row : Nat → Part → Context → Option Part) :
    Host.Outcome State Fault Refusal :=
  if c < Config.numContexts then s.now fun p => p.performRow c row else .fault .noSuchContext

/-- A row of a client port. -/
def onPort (i : Nat) (o : Host.Outcome State Fault Refusal) : Host.Outcome State Fault Refusal :=
  if i < Config.numPorts then o else .fault .noSuchPort

/-- A row of a zone. -/
def onZone (z : Nat) (o : Host.Outcome State Fault Refusal) : Host.Outcome State Fault Refusal :=
  if z < Config.numZones then o else .fault .noSuchZone

/-- A row of a due list. -/
def onList (l : Nat) (o : Host.Outcome State Fault Refusal) : Host.Outcome State Fault Refusal :=
  if l < Config.numLists then o else .fault .noSuchList

/-- A row of a miss file entry. -/
def onEntry (e : Nat) (o : Host.Outcome State Fault Refusal) : Host.Outcome State Fault Refusal :=
  if e < Config.missFileSize then o else .fault .noSuchEntry

end Sys2Proof.Machine
end

