-- ==== Sys2Proof/Machine/EngineMeanings.lean ====
section
/-! DEFINITION. The meanings of the rows of the request engine and the record path (05 to 08). -/

namespace Sys2Proof.Machine

/-- REQUEST_TAKEN (R136). -/
def execRequestTaken (s : State) : Host.Outcome State Fault Refusal :=
  s.act fun p => match p.freeContext, p.nextRequest with
    | some c, some (i, q) => p.takeRequest c i q
    | some _, none | none, _ => p

/-- MISS_WAIT_PROBE (R123, step 3). -/
def execMissWaitProbe (s : State) : Host.Outcome State Fault Refusal := s.probing fun p => (urgentProbe p).getD p

/-- WALK_READ_COMPLETE (R122). -/
def execWalkReadComplete (e : Nat) (s : State) : Host.Outcome State Fault Refusal :=
  onEntry e (s.act fun p => match p.takeReturn (.walk e) with
    | none => p
    | some (none, q) => q
    | some (some v, q) =>
      match tfind q.path.missFile e with
      | some w => q.walkRead e w v
      | none => q)

/-- UPDATE_READ_COMPLETE (R141). -/
def execUpdateReadComplete (s : State) : Host.Outcome State Fault Refusal :=
  s.act fun p => match p.takeReturn .update with
    | none => p
    | some (_, q) => q.updateRead

/-- HOLD_READ_COMPLETE (R114). -/
def execHoldReadComplete (s : State) : Host.Outcome State Fault Refusal :=
  s.act fun p => match p.takeReturn .hold with
    | none => p
    | some (none, q) => q
    | some (some _, q) =>
      match q.engine.holdRead with
      | some c => q.lotHoldRead c
      | none => q

/-- PATTERN_FLUSH_STEP (R133). -/
def execPatternFlushStep (s : State) : Host.Outcome State Fault Refusal :=
  s.act fun p => match p.path.flush with
    | some f => p.flushStep f
    | none => p

/-- RANGE_CHECK_READ_COMPLETE (R108). -/
def execRangeCheckReadComplete (s : State) : Host.Outcome State Fault Refusal :=
  s.act fun p => match p.takeReturn .range with
    | some (some (.branch e), q) =>
      (match q.engine.range with
        | some rc => q.rangeRead rc e
        | none => q)
    | some (some (.leaf _), q) | some (some (.record _ _), q) | some (none, q) => q
    | none => p

/-- QUEUE_WRITE_COMPLETE (R127). -/
def execQueueWriteComplete (s : State) : Host.Outcome State Fault Refusal :=
  s.act fun p => if p.path.inFlight = some .write then p.completeWrite else p

/-- HELD_WRITE_QUEUED (R125). -/
def execHeldWriteQueued (s : State) : Host.Outcome State Fault Refusal := s.now fun p => (urgentHeld p).getD p

/-- RELEASE_ALL_WALK_STEP (R168). -/
def execReleaseAllWalkStep (s : State) : Host.Outcome State Fault Refusal :=
  s.act fun p => match p.engine.releaseAll with
    | some ra => if p.releaseAllReady ra then p.releaseAllStep ra else p
    | none => p

/-- RELEASE_ALL_RECORD_READ (R168). -/
def execReleaseAllRecordRead (s : State) : Host.Outcome State Fault Refusal :=
  s.act fun p => match p.takeReturn .releaseAll with
    | some (some (.record r checked), q) =>
      (match q.engine.releaseAll with
        | some ra => q.releaseAllRead ra r checked
        | none => q)
    | some (some (.leaf _), q) | some (some (.branch _), q) | some (none, q) => q
    | none => p

end Sys2Proof.Machine
end

