-- ==== Sys2Proof/Machine/PortMeanings.lean ====
section
/-! DEFINITION. The meanings of the rows of the port unit (09). -/

namespace Sys2Proof.Machine

/-- REQUEST_ARRIVAL (R173, R175 to R177): bytes that complete a sound frame of kind REQUEST. -/
def execRequestArrival (i : Nat) (bytes : List Byte) (s : State) : Host.Outcome State Fault Refusal :=
  onPort i (s.act fun p => p.framerRow i bytes fun e => match e with
    | .frame kind _ _ _ _ => kind == 1
    | .lose _ | .reject _ => false)

/-- LOSE_SYNC (R174). -/
def execLoseSync (i : Nat) (bytes : List Byte) (s : State) : Host.Outcome State Fault Refusal :=
  onPort i (s.act fun p => p.framerRow i bytes fun e => match e with
    | .lose _ => true
    | .frame _ _ _ _ _ | .reject _ => false)

/-- CANDIDATE_REJECTED (R174). -/
def execCandidateRejected (i : Nat) (bytes : List Byte) (s : State) : Host.Outcome State Fault Refusal :=
  onPort i (s.act fun p => p.framerRow i bytes fun e => match e with
    | .reject _ => true
    | .frame _ _ _ _ _ | .lose _ => false)

/-- WRONG_KIND_FRAME (R175). -/
def execWrongKindFrame (i : Nat) (bytes : List Byte) (s : State) : Host.Outcome State Fault Refusal :=
  onPort i (s.act fun p => p.framerRow i bytes fun e => match e with
    | .frame kind _ _ _ _ => kind != 1
    | .lose _ | .reject _ => false)

/-- ANSWER_QUEUED (R179). -/
def execAnswerQueued (i : Nat) (s : State) : Host.Outcome State Fault Refusal :=
  onPort i (s.now fun p => p.queueWaiting i)

/-- TURN_COMPLETE (R180). -/
def execTurnComplete (i : Nat) (s : State) : Host.Outcome State Fault Refusal := onPort i (s.act fun p => p.turnDone i)

end Sys2Proof.Machine
end

