-- ==== Sys2Proof/Machine/RequestMeanings.lean ====
section
/-! DEFINITION. The meanings of the rows that perform a request (03, 04, 05, 07, 08, 10, 11): one for each row, over the performance of its
request. -/

namespace Sys2Proof.Machine

/-- The performance of a context's Enroll (R146). -/
def execEnroll (c : Nat) (s : State) : Host.Outcome State Fault Refusal := s.performing c performEnroll

/-- The performance of a context's Lookup (R147). -/
def execLookup (c : Nat) (s : State) : Host.Outcome State Fault Refusal := s.performing c performLookup

/-- The performance of a context's Verify (R148). -/
def execVerify (c : Nat) (s : State) : Host.Outcome State Fault Refusal := s.performing c performVerify

/-- The performance of a context's OpenOne (R150). -/
def execOpenOne (c : Nat) (s : State) : Host.Outcome State Fault Refusal := s.performing c performOpenOne

/-- The performance of a context's MultiOpen (R62). -/
def execMultiOpen (c : Nat) (s : State) : Host.Outcome State Fault Refusal := s.performing c performMultiOpen

/-- The performance of a context's Move (R151). -/
def execMove (c : Nat) (s : State) : Host.Outcome State Fault Refusal := s.performing c performMove

/-- The performance of a context's Seal (R152). -/
def execSeal (c : Nat) (s : State) : Host.Outcome State Fault Refusal := s.performing c performSeal

/-- The performance of a context's Retire (R153). -/
def execRetire (c : Nat) (s : State) : Host.Outcome State Fault Refusal := s.performing c performRetire

/-- The performance of a context's Relabel (R156). -/
def execRelabel (c : Nat) (s : State) : Host.Outcome State Fault Refusal := s.performing c performRelabel

/-- The performance of a context's Checkout (R161). -/
def execCheckout (c : Nat) (s : State) : Host.Outcome State Fault Refusal := s.performing c performCheckout

/-- The performance of a context's Release (R163). -/
def execRelease (c : Nat) (s : State) : Host.Outcome State Fault Refusal := s.performing c performRelease

/-- The performance of a context's MoveGroup (R70). -/
def execMoveGroup (c : Nat) (s : State) : Host.Outcome State Fault Refusal := s.performing c performMoveGroup

/-- The performance of a context's ListBag (R73). -/
def execListBag (c : Nat) (s : State) : Host.Outcome State Fault Refusal := s.performing c performListBag

/-- The performance of a context's ListDue (R57). -/
def execListDue (c : Nat) (s : State) : Host.Outcome State Fault Refusal := s.performing c performListDue

/-- The performance of a context's ListCheckouts (R169). -/
def execListCheckouts (c : Nat) (s : State) : Host.Outcome State Fault Refusal := s.performing c performListCheckouts

/-- The performance of a context's HoldCarrier (R113). -/
def execHoldCarrier (c : Nat) (s : State) : Host.Outcome State Fault Refusal := s.performing c performHoldCarrier

/-- The performance of a context's HoldBag (R113). -/
def execHoldBag (c : Nat) (s : State) : Host.Outcome State Fault Refusal := s.performing c performHoldBag

/-- The performance of a context's HoldLot (R114). -/
def execHoldLot (c : Nat) (s : State) : Host.Outcome State Fault Refusal := s.performing c performHoldLot

/-- The performance of a context's HoldConsignor (R114). -/
def execHoldConsignor (c : Nat) (s : State) : Host.Outcome State Fault Refusal := s.performing c performHoldConsignor

/-- The performance of a context's UnholdCarrier (R113). -/
def execUnholdCarrier (c : Nat) (s : State) : Host.Outcome State Fault Refusal := s.performing c performUnholdCarrier

/-- The performance of a context's UnholdBag (R113). -/
def execUnholdBag (c : Nat) (s : State) : Host.Outcome State Fault Refusal := s.performing c performUnholdBag

/-- The performance of a context's UnholdLot (R114). -/
def execUnholdLot (c : Nat) (s : State) : Host.Outcome State Fault Refusal := s.performing c performUnholdLot

/-- The performance of a context's UnholdConsignor (R114). -/
def execUnholdConsignor (c : Nat) (s : State) : Host.Outcome State Fault Refusal := s.performing c performUnholdConsignor

/-- The performance of a context's Climate (R18). -/
def execClimate (c : Nat) (s : State) : Host.Outcome State Fault Refusal := s.performing c performClimate

/-- The performance of a context's Trip (R15). -/
def execTrip (c : Nat) (s : State) : Host.Outcome State Fault Refusal := s.performing c performTrip

/-- The performance of a context's ClearTrip (R16). -/
def execClearTrip (c : Nat) (s : State) : Host.Outcome State Fault Refusal := s.performing c performClearTrip

/-- The performance of a context's BakeStart (R78). -/
def execBakeStart (c : Nat) (s : State) : Host.Outcome State Fault Refusal := s.performing c performBakeStart

/-- The performance of a context's BakeStop (R82). -/
def execBakeStop (c : Nat) (s : State) : Host.Outcome State Fault Refusal := s.performing c performBakeStop

/-- The performance of a context's Status (R197). -/
def execStatus (c : Nat) (s : State) : Host.Outcome State Fault Refusal := s.performing c performStatus

/-- The performance of a context's ClassSet (R189). -/
def execClassSet (c : Nat) (s : State) : Host.Outcome State Fault Refusal := s.performing c performClassSet

/-- The performance of a context's BandSet (R190). -/
def execBandSet (c : Nat) (s : State) : Host.Outcome State Fault Refusal := s.performing c performBandSet

/-- The performance of a context's WeightSet (R190). -/
def execWeightSet (c : Nat) (s : State) : Host.Outcome State Fault Refusal := s.performing c performWeightSet

/-- The performance of a context's ZoneSet (R191). -/
def execZoneSet (c : Nat) (s : State) : Host.Outcome State Fault Refusal := s.performing c performZoneSet

/-- The performance of a context's PortSet (R193). -/
def execPortSet (c : Nat) (s : State) : Host.Outcome State Fault Refusal := s.performing c performPortSet

/-- The performance of a context's ConsignorSet (R193). -/
def execConsignorSet (c : Nat) (s : State) : Host.Outcome State Fault Refusal := s.performing c performConsignorSet

/-- The performance of a context's RouteSet (R194). -/
def execRouteSet (c : Nat) (s : State) : Host.Outcome State Fault Refusal := s.performing c performRouteSet

/-- The performance of a context's ExemptSet (R195). -/
def execExemptSet (c : Nat) (s : State) : Host.Outcome State Fault Refusal := s.performing c performExemptSet

/-- The performance of a context's TimeSet (R196). -/
def execTimeSet (c : Nat) (s : State) : Host.Outcome State Fault Refusal := s.performing c performTimeSet

/-- The performance of a context's ForceRetire (R132). -/
def execForceRetire (c : Nat) (s : State) : Host.Outcome State Fault Refusal := s.performing c performForceRetire

/-- The performance of a context's FaultClear (R199). -/
def execFaultClear (c : Nat) (s : State) : Host.Outcome State Fault Refusal := s.performing c performFaultClear

/-- The performance of a context's ReleaseAll (R167). -/
def execReleaseAll (c : Nat) (s : State) : Host.Outcome State Fault Refusal := s.performing c performReleaseAll

/-- The performance of a context's Restart (R208). -/
def execRestart (c : Nat) (s : State) : Host.Outcome State Fault Refusal := s.performing c performRestart

/-- The performance of a context's Format (R209). -/
def execFormat (c : Nat) (s : State) : Host.Outcome State Fault Refusal := s.performing c performFormat

end Sys2Proof.Machine
end

