-- ==== Sys2Proof/Machine/StartMeanings.lean ====
section
/-! DEFINITION. The meanings of the rows of starts and the rebuild (11). -/

namespace Sys2Proof.Machine

/-- POWER_ON_RESET (R202). -/
def execPowerOnReset (s : State) : Host.Outcome State Fault Refusal := .next { s with part := s.part.settled.powerOn }

/-- RESET_LINE_APPLIED (R202): on-chip state is lost at once (log 26). -/
def execResetLineApplied (s : State) : Host.Outcome State Fault Refusal :=
  .next { s with part := s.part.settled.interrupted.blank s.part.power true }

/-- POWER_LOSS (R202, R127). -/
def execPowerLoss (s : State) : Host.Outcome State Fault Refusal :=
  .next { s with part := s.part.settled.interrupted.blank false s.part.resetLine }

/-- The rebuild stands in a phase. -/
def Part.inPhase (p : Part) (ph : Phase) : Bool := p.engine.mode == .rebuilding ph

/-- LOAD_CONFIG (R203). -/
def execLoadConfig (s : State) : Host.Outcome State Fault Refusal :=
  s.act fun p => if p.inPhase .loadConfig then p.loadConfig else p

/-- LOAD_ZONES (R204). -/
def execLoadZones (s : State) : Host.Outcome State Fault Refusal :=
  s.act fun p => if p.inPhase .loadZones then p.loadZones else p

/-- SCAN_DIRECTORY (R205). -/
def execScanDirectory (s : State) : Host.Outcome State Fault Refusal :=
  s.act fun p => if p.inPhase .scanDirectory then p.scanDirectory else p

/-- SCAN_TALLIES (R206). -/
def execScanTallies (s : State) : Host.Outcome State Fault Refusal :=
  s.act fun p => if p.inPhase .scanTallies then p.scanTallies else p

/-- CLEARING (R209). -/
def execClearing (s : State) : Host.Outcome State Fault Refusal :=
  s.act fun p => if p.inPhase .clearing then p.clear else p

/-- GAP_CHARGE_VISIBLE (R207). -/
def execGapChargeVisible (s : State) : Host.Outcome State Fault Refusal :=
  s.act fun p => match p.path.inFlight with
    | some (.advance area true) => p.gapDone area
    | some (.advance _ false) | some (.zone _ _) | some .write | some .tally | some (.read _) | none => p

/-- RESTART_BEGINS (R208). -/
def execRestartBegins (s : State) : Host.Outcome State Fault Refusal :=
  .next { s with part :=
    if s.part.alive && s.part.engine.startOwed == some .restart then s.part.beginRestart else s.part }

/-- FORMAT_BEGINS (R209). -/
def execFormatBegins (s : State) : Host.Outcome State Fault Refusal :=
  .next { s with part :=
    if s.part.alive && s.part.engine.startOwed == some .format then s.part.beginFormat else s.part }

end Sys2Proof.Machine
end

