-- ==== Sys2Proof/Machine/TallyMeanings.lean ====
section
/-! DEFINITION. The meanings of the rows of the tally unit (02, 04). -/

namespace Sys2Proof.Machine

/-- The tally unit takes its next command when it is of the row that asks (R43 to R45). -/
def Part.takeNext (p : Part) (row : TallyCmd → Option (Part → Part)) : Part :=
  match p.nextCommand with
  | none => p
  | some c =>
    match row c with
    | some work => p.takeCommand c work
    | none => p

/-- SERVE_MARK (R45, R34). -/
def execServeMark (s : State) : Host.Outcome State Fault Refusal :=
  s.act fun p => match p.nextMark with
    | some l => p.serveMark l
    | none => p

/-- CREATE (R47). -/
def execCreate (s : State) : Host.Outcome State Fault Refusal :=
  s.act fun p => p.takeNext fun c => match c.op with
    | .create n k cls e b => some fun q => q.takeCreate c.id n k cls e b
    | _ => none

/-- ARM (R48). -/
def execArm (s : State) : Host.Outcome State Fault Refusal :=
  s.act fun p => p.takeNext fun c => match c.op with
    | .arm n z => some fun q => q.takeArm c.id n z
    | _ => none

/-- MOVE (R49). -/
def execTallyMove (s : State) : Host.Outcome State Fault Refusal :=
  s.act fun p => p.takeNext fun c => match c.op with
    | .move n z => some fun q => q.takeMove c.id n z
    | _ => none

/-- SEAL (R50). -/
def execTallySeal (s : State) : Host.Outcome State Fault Refusal :=
  s.act fun p => p.takeNext fun c => match c.op with
    | .seal n => some fun q => q.takeSeal c.id n
    | _ => none

/-- JOIN (R51). -/
def execJoin (s : State) : Host.Outcome State Fault Refusal :=
  s.act fun p => p.takeNext fun c => match c.op with
    | .join bag ms z => some fun q => q.takeJoin c.id bag ms z
    | _ => none

/-- SPLIT (R52). -/
def execSplit (s : State) : Host.Outcome State Fault Refusal :=
  s.act fun p => p.takeNext fun c => match c.op with
    | .split bag n z => some fun q => q.takeSplit c.id bag n z
    | _ => none

/-- LEAVE (R53). -/
def execLeave (s : State) : Host.Outcome State Fault Refusal :=
  s.act fun p => p.takeNext fun c => match c.op with
    | .leave n bag => some fun q => q.takeLeave c.id n bag
    | _ => none

/-- FREE (R54). -/
def execFree (s : State) : Host.Outcome State Fault Refusal :=
  s.act fun p => p.takeNext fun c => match c.op with
    | .free n => some fun q => q.takeFree c.id n
    | _ => none

/-- READ (R55). -/
def execRead (s : State) : Host.Outcome State Fault Refusal :=
  s.act fun p => p.takeNext fun c => match c.op with
    | .read n => some fun q => q.takeRead c.id n
    | _ => none

/-- LIST_DUE at its taking (R56). -/
def execListDueCommand (s : State) : Host.Outcome State Fault Refusal :=
  s.act fun p => p.takeNext fun c => match c.op with
    | .listDue z cls skip want => some fun q => q.takeListDue c.id z cls skip want
    | _ => none

/-- INSERTION_WALK_STEP (R36, R37). -/
def execInsertionWalkStep (l : Nat) (s : State) : Host.Outcome State Fault Refusal :=
  onList l (s.act fun p => match (p.listAt l).walk with
    | some (.insertion cmd n m due warn pos) => p.insertionStep l cmd n m due warn pos
    | some (.listDue _ _ _ _ _) | none => p)

/-- LIST_DUE_WALK_STEP (R56). -/
def execListDueWalkStep (l : Nat) (s : State) : Host.Outcome State Fault Refusal :=
  onList l (s.act fun p => match (p.listAt l).walk with
    | some (.listDue id skip want rest page) => p.listDueStep l id skip want rest page
    | some (.insertion _ _ _ _ _ _) | none => p)

/-- BAKE_WALK_STEP (R85 to R89). -/
def execBakeWalkStep (z : Nat) (s : State) : Host.Outcome State Fault Refusal :=
  onZone z (s.act fun p => match p.bakeWalkReady z with
    | some b => p.bakeStep b
    | none => p)

/-- TALLY_WRITE_COMPLETE (R58). -/
def execTallyWriteComplete (s : State) : Host.Outcome State Fault Refusal :=
  s.act fun p => if p.path.inFlight = some .tally then p.tallyWritten else p

/-- TALLY_COMMAND_ISSUED (R142). -/
def execTallyCommandIssued (s : State) : Host.Outcome State Fault Refusal :=
  s.act fun p => match p.nextIssuer with
    | some c => p.issueNext c
    | none => p

end Sys2Proof.Machine
end

