-- ==== Sys2Proof/Machine/ZoneMeanings.lean ====
section
/-! DEFINITION. The meanings of the rows of the zone unit (01, 04). -/

namespace Sys2Proof.Machine

/-- MINUTE_TICK (R1, R2, R19). -/
def execMinuteTick (s : State) : Host.Outcome State Fault Refusal := s.act Part.tick

/-- BAKE_COMPLETE (R80). -/
def execBakeComplete (z : Nat) (s : State) : Host.Outcome State Fault Refusal :=
  onZone z (s.now fun p => if p.bakeDueAt z then p.completeBake z else p)

/-- ADVANCE_VISIBLE (R21). -/
def execAdvanceVisible (s : State) : Host.Outcome State Fault Refusal :=
  s.act fun p => match p.path.inFlight with
    | some (.advance area false) => p.advanceDone area
    | some (.advance _ true) | some (.zone _ _) | some .write | some .tally | some (.read _) | none => p

/-- ZONE_RECORD_WRITE_DONE (R23). -/
def execZoneRecordWriteDone (s : State) : Host.Outcome State Fault Refusal :=
  s.act fun p => match p.path.inFlight with
    | some (.zone z r) => p.zoneWritten z r
    | some (.advance _ _) | some .write | some .tally | some (.read _) | none => p

/-- CONDITION_LINE_CHANGE (R13): the pin changes whatever the part does. -/
def execConditionLineChange (z : Nat) (asserted : Bool) (s : State) : Host.Outcome State Fault Refusal :=
  onZone z (.next { s with part := s.part.settled.lineChange z asserted })

/-- BAKE_WALK_COMPLETION (R89, R90). Of two reports that wait, the one reported first is taken first, which R89 leaves open
(DESIGN CHOICE, log 63). -/
def execBakeWalkCompletion (s : State) : Host.Outcome State Fault Refusal :=
  s.act fun p => match p.zone.reports with
    | r :: _ => p.takeReport r
    | [] => p

end Sys2Proof.Machine
end

