-- ==== Sys2Proof/Machine/Dispatch.lean ====
section
/-! DEFINITION. The dispatch: one arm for each command. -/

namespace Sys2Proof.Machine

def exec (i : Instr) (s : State) : Host.Outcome State Fault Refusal :=
  match i with
  | .powerOnReset => Sys2Proof.Machine.execPowerOnReset s
  | .loadConfig => Sys2Proof.Machine.execLoadConfig s
  | .loadZones => Sys2Proof.Machine.execLoadZones s
  | .scanDirectory => Sys2Proof.Machine.execScanDirectory s
  | .scanTallies => Sys2Proof.Machine.execScanTallies s
  | .clearing => Sys2Proof.Machine.execClearing s
  | .gapChargeVisible => Sys2Proof.Machine.execGapChargeVisible s
  | .restartBegins => Sys2Proof.Machine.execRestartBegins s
  | .formatBegins => Sys2Proof.Machine.execFormatBegins s
  | .minuteTick => Sys2Proof.Machine.execMinuteTick s
  | .bakeComplete z => Sys2Proof.Machine.execBakeComplete z s
  | .advanceVisible => Sys2Proof.Machine.execAdvanceVisible s
  | .zoneRecordWriteDone => Sys2Proof.Machine.execZoneRecordWriteDone s
  | .conditionLineChange z a => Sys2Proof.Machine.execConditionLineChange z a s
  | .bakeWalkStep z => Sys2Proof.Machine.execBakeWalkStep z s
  | .bakeWalkCompletion => Sys2Proof.Machine.execBakeWalkCompletion s
  | .serveMark => Sys2Proof.Machine.execServeMark s
  | .create => Sys2Proof.Machine.execCreate s
  | .arm => Sys2Proof.Machine.execArm s
  | .tallyMove => Sys2Proof.Machine.execTallyMove s
  | .tallySeal => Sys2Proof.Machine.execTallySeal s
  | .join => Sys2Proof.Machine.execJoin s
  | .split => Sys2Proof.Machine.execSplit s
  | .leave => Sys2Proof.Machine.execLeave s
  | .free => Sys2Proof.Machine.execFree s
  | .read => Sys2Proof.Machine.execRead s
  | .listDueCommand => Sys2Proof.Machine.execListDueCommand s
  | .insertionWalkStep l => Sys2Proof.Machine.execInsertionWalkStep l s
  | .listDueWalkStep l => Sys2Proof.Machine.execListDueWalkStep l s
  | .tallyWriteComplete => Sys2Proof.Machine.execTallyWriteComplete s
  | .tallyCommandIssued => Sys2Proof.Machine.execTallyCommandIssued s
  | .requestTaken => Sys2Proof.Machine.execRequestTaken s
  | .missWaitProbe => Sys2Proof.Machine.execMissWaitProbe s
  | .walkReadComplete e => Sys2Proof.Machine.execWalkReadComplete e s
  | .updateReadComplete => Sys2Proof.Machine.execUpdateReadComplete s
  | .holdReadComplete => Sys2Proof.Machine.execHoldReadComplete s
  | .patternFlushStep => Sys2Proof.Machine.execPatternFlushStep s
  | .rangeCheckReadComplete => Sys2Proof.Machine.execRangeCheckReadComplete s
  | .queueWriteComplete => Sys2Proof.Machine.execQueueWriteComplete s
  | .heldWriteQueued => Sys2Proof.Machine.execHeldWriteQueued s
  | .releaseAllWalkStep => Sys2Proof.Machine.execReleaseAllWalkStep s
  | .releaseAllRecordRead => Sys2Proof.Machine.execReleaseAllRecordRead s
  | .answerQueued p => Sys2Proof.Machine.execAnswerQueued p s
  | .turnComplete p => Sys2Proof.Machine.execTurnComplete p s
  | .loseSync p b => Sys2Proof.Machine.execLoseSync p b s
  | .candidateRejected p b => Sys2Proof.Machine.execCandidateRejected p b s
  | .wrongKindFrame p b => Sys2Proof.Machine.execWrongKindFrame p b s
  | .enroll c => Sys2Proof.Machine.execEnroll c s
  | .lookup c => Sys2Proof.Machine.execLookup c s
  | .verify c => Sys2Proof.Machine.execVerify c s
  | .openOne c => Sys2Proof.Machine.execOpenOne c s
  | .multiKeyOpen c => Sys2Proof.Machine.execMultiOpen c s
  | .move c => Sys2Proof.Machine.execMove c s
  | .seal c => Sys2Proof.Machine.execSeal c s
  | .retire c => Sys2Proof.Machine.execRetire c s
  | .relabel c => Sys2Proof.Machine.execRelabel c s
  | .checkout c => Sys2Proof.Machine.execCheckout c s
  | .release c => Sys2Proof.Machine.execRelease c s
  | .moveGroup c => Sys2Proof.Machine.execMoveGroup c s
  | .listBag c => Sys2Proof.Machine.execListBag c s
  | .listDue c => Sys2Proof.Machine.execListDue c s
  | .listCheckouts c => Sys2Proof.Machine.execListCheckouts c s
  | .holdCarrier c => Sys2Proof.Machine.execHoldCarrier c s
  | .holdBag c => Sys2Proof.Machine.execHoldBag c s
  | .holdLot c => Sys2Proof.Machine.execHoldLot c s
  | .holdConsignor c => Sys2Proof.Machine.execHoldConsignor c s
  | .unholdCarrier c => Sys2Proof.Machine.execUnholdCarrier c s
  | .unholdBag c => Sys2Proof.Machine.execUnholdBag c s
  | .unholdLot c => Sys2Proof.Machine.execUnholdLot c s
  | .unholdConsignor c => Sys2Proof.Machine.execUnholdConsignor c s
  | .climate c => Sys2Proof.Machine.execClimate c s
  | .trip c => Sys2Proof.Machine.execTrip c s
  | .clearTrip c => Sys2Proof.Machine.execClearTrip c s
  | .bakeStart c => Sys2Proof.Machine.execBakeStart c s
  | .bakeStop c => Sys2Proof.Machine.execBakeStop c s
  | .status c => Sys2Proof.Machine.execStatus c s
  | .classSet c => Sys2Proof.Machine.execClassSet c s
  | .bandSet c => Sys2Proof.Machine.execBandSet c s
  | .weightSet c => Sys2Proof.Machine.execWeightSet c s
  | .zoneSet c => Sys2Proof.Machine.execZoneSet c s
  | .portSet c => Sys2Proof.Machine.execPortSet c s
  | .consignorSet c => Sys2Proof.Machine.execConsignorSet c s
  | .routeSet c => Sys2Proof.Machine.execRouteSet c s
  | .exemptSet c => Sys2Proof.Machine.execExemptSet c s
  | .timeSet c => Sys2Proof.Machine.execTimeSet c s
  | .forceRetire c => Sys2Proof.Machine.execForceRetire c s
  | .faultClear c => Sys2Proof.Machine.execFaultClear c s
  | .releaseAll c => Sys2Proof.Machine.execReleaseAll c s
  | .restart c => Sys2Proof.Machine.execRestart c s
  | .format c => Sys2Proof.Machine.execFormat c s
  | .requestArrival p b => Sys2Proof.Machine.execRequestArrival p b s
  | .resetLineApplied => Sys2Proof.Machine.execResetLineApplied s
  | .powerLoss => Sys2Proof.Machine.execPowerLoss s

end Sys2Proof.Machine
end

