-- ==== Sys2Proof/WellFormed.lean ====
section
/-! DEFINITION. A command is well formed when its operand names a unit of the part. -/

namespace Sys2Proof

/-- Every operand names a unit the part has: 16 contexts (R135), 4 ports (R171), 32 zones (R9), 256 due lists (R31),
8 miss file entries (R121). -/
def Instr.wellFormed : Instr → Bool
  | .bakeComplete z | .conditionLineChange z _ | .bakeWalkStep z => z < Config.numZones
  | .insertionWalkStep l | .listDueWalkStep l => l < Config.numLists
  | .walkReadComplete e => e < Config.missFileSize
  | .answerQueued p | .turnComplete p | .loseSync p _ | .candidateRejected p _ | .wrongKindFrame p _
  | .requestArrival p _ => p < Config.numPorts
  | .enroll c | .lookup c | .verify c | .openOne c | .multiKeyOpen c | .move c | .seal c | .retire c | .relabel c
  | .checkout c | .release c | .moveGroup c | .listBag c | .listDue c | .listCheckouts c
  | .holdCarrier c | .holdBag c | .holdLot c | .holdConsignor c
  | .unholdCarrier c | .unholdBag c | .unholdLot c | .unholdConsignor c
  | .climate c | .trip c | .clearTrip c | .bakeStart c | .bakeStop c | .status c
  | .classSet c | .bandSet c | .weightSet c | .zoneSet c | .portSet c | .consignorSet c | .routeSet c | .exemptSet c
  | .timeSet c | .forceRetire c | .faultClear c | .releaseAll c | .restart c | .format c => c < Config.numContexts
  | .powerOnReset | .loadConfig | .loadZones | .scanDirectory | .scanTallies | .clearing | .gapChargeVisible
  | .restartBegins | .formatBegins | .minuteTick | .advanceVisible | .zoneRecordWriteDone | .bakeWalkCompletion
  | .serveMark | .create | .arm | .tallyMove | .tallySeal | .join | .split | .leave | .free | .read
  | .listDueCommand | .tallyWriteComplete | .tallyCommandIssued | .requestTaken | .missWaitProbe
  | .updateReadComplete | .holdReadComplete | .patternFlushStep | .rangeCheckReadComplete | .queueWriteComplete
  | .heldWriteQueued | .releaseAllWalkStep | .releaseAllRecordRead | .resetLineApplied | .powerLoss => true

end Sys2Proof
end

