-- ==== Sys2Proof/Safety.lean ====
section
/-! DEFINITION. What may go wrong with a step, and the words the statements use: when nothing is due in the act, when a
context may be performed, what an answer leaves unchanged, and the shapes and sizes that every step keeps. -/

namespace Sys2Proof.Machine

/-- A step that answers a next state. -/
def Completes (s : State) : Prop := ∃ t, step s = .next t

/-- Every command that waits names units of the part. -/
def State.wellFormed (s : State) : Bool := s.pending.all Instr.wellFormed

/-- The part takes steps and nothing is due in the act (log 1). -/
def Part.quiet (p : Part) : Bool := p.alive && (urgentStep p).isNone

/-- Context `c`, which holds `x`, is to be performed (R140), nothing of an earlier performance is left with it, and no probe of
an ended walk is due (R123). -/
structure Part.Performs (p : Part) (c : Nat) (x : Context) : Prop where
  inRange     : c < Config.numContexts
  alive       : p.alive = true
  noProbe     : p.path.owedProbes = []
  context     : p.ctx? c = some x
  performable : p.performable c = true
  noCommand   : x.toIssue = [] ∧ x.outstanding = 0
  noWrite     : p.hasHeld c = false ∧ p.flushes c = false

/-- The part with the context's performance begun (R140). -/
def Part.begun (p : Part) (c : Nat) (x : Context) : Part := (p.beginPerform c x).1

/-- What no answer and no performance changes by itself: everything but the contexts, the slots on their way to the free
list, the cache and its walks, the access in flight, and the ports' queues. -/
structure Books where
  power     : Bool
  resetLine : Bool
  lines     : List Bool
  free      : Nat
  mem       : RecordMemory
  zone      : ZoneUnit
  tally     : TallyUnit
  queue     : List QWrite
  held      : List QWrite
  flush     : Option Flush
  mode      : Mode
  startKind : StartKind
  roots     : Table RootEntry
  blockFree : FreeList
  exempt    : List ExemptRange
  epoch     : Nat
  bags      : Table BagRecord
  bagFree   : FreeList
  checkouts : Table Checkout
  faults    : List FaultEntry
  unlisted  : Nat
  turn      : List Update
  holdRead  : Option Nat
  range     : Option RangeCheck
  arrivals  : Nat
  routing   : List (Option Nat)
  deriving DecidableEq, Repr

def Part.books (p : Part) : Books :=
  { power := p.power, resetLine := p.resetLine, lines := p.lines, free := p.free, mem := p.mem, zone := p.zone
    tally := p.tally, queue := p.path.queue, held := p.path.held, flush := p.path.flush, mode := p.engine.mode
    startKind := p.engine.startKind, roots := p.engine.roots, blockFree := p.engine.blockFree, exempt := p.engine.exempt
    epoch := p.engine.epoch, bags := p.engine.bags, bagFree := p.engine.bagFree, checkouts := p.engine.checkouts
    faults := p.engine.faults, unlisted := p.engine.unlisted, turn := p.engine.turn, holdRead := p.engine.holdRead
    range := p.engine.range, arrivals := p.engine.arrivals, routing := p.port.routing }

/-- The ports once an answer has been composed for port `i`: it is queued and its request ceases to be outstanding, or it
waits behind the answers composed earlier (R176, R179). -/
def PortUnit.withAnswer (u : PortUnit) (i : Nat) (a : Answer) (ctx : Option Nat) : PortUnit :=
  { u with ports := modifyAt u.ports i fun q =>
      if q.waitingAnswers = [] ∧ q.answers.length < Config.answerQueueSize then
        ({ q with answers := q.answers ++ [a], outstanding := q.outstanding - 1 }).beginTurn
      else { q with waitingAnswers := q.waitingAnswers ++ [(⟨a, ctx⟩ : WaitingAnswer)] } }

/-- The ports once a notice of a routed kind has been given (R182, R183); the body begins with the holder-copy mark. -/
def PortUnit.withNotice (u : PortUnit) (kind : NoticeKind) (body : Body) : PortUnit :=
  match kind.routeIndex with
  | none => u
  | some k =>
    match u.routing.getD k none with
    | none => u
    | some i => { u with ports := modifyAt u.ports i fun q => q.takeNotice kind (fFlag false :: body) }

/-- The ports once a WARN or EXPIRED notice has been given of a tally whose carriers the checkouts `held` hold (R165, R183): the
routed notice, then one marked holder copy for each distinct port of a holder but the routed one, in ascending order, with the
carriers held on that port. -/
def PortUnit.withTallyNotice (u : PortUnit) (kind : NoticeKind) (body : Body) (held : List Checkout) : PortUnit :=
  let routed : Option Nat := match kind.routeIndex with
    | none => none
    | some k => u.routing.getD k none
  [0, 1, 2, 3].foldl (fun (v : PortUnit) (i : Nat) =>
    let here := held.filter fun h => h.port == i
    let copy : Body := ⟨1, 1⟩ :: body ++ ⟨1, here.length⟩ :: here.flatMap fun h => [fKey h.primary, ⟨1, h.station⟩]
    if here = [] ∨ routed = some i then v
    else { v with ports := modifyAt v.ports i fun q => q.takeNotice kind copy }) (u.withNotice kind body)

/-- The record cache once the record of a slot has changed to `r` (R120, R124): the valid entry that names the slot takes it, and
is pinned exactly when it has a checkout index; every other entry stays. -/
def cacheAfter (cache : Table CacheEntry) (slot : Nat) (r : CarrierRecord) : Table CacheEntry :=
  cache.map fun e => if e.2.slot = slot then (e.1, { e.2 with record := r, pinned := r.checkout.isSome }) else e

/-- The part once the leaf entry of a key has been removed where it names the slot (R98), but for what a returned block does to
the reads of it (R99): the writes, the live counts, the blocks returned to the pool. -/
def Part.entryRemoved (p : Part) (o : Option Nat) (slot : Nat) (k : Key) : Part :=
  let root := p.rootAt k.consignor.toNat
  let w := fun (b : WriteBody) => (⟨o, b⟩ : QWrite)
  let withRoot := fun (root : RootEntry) => tset p.engine.roots k.consignor.toNat root {}
  match root.branch with
  | none => p
  | some b =>
    let entry := p.branchNow b k.lot.toNat
    match entry.leaf with
    | none => p
    | some l =>
      if (p.leafAt k).slot? ≠ some slot then p
      else if 1 < entry.live then { p with
        path.queue := p.path.queue ++ [w (.leaf l k.serial.toNat .empty),
          w (.branch b k.lot.toNat { entry with live := entry.live - 1 })] }
      else if 1 < root.live then { p with
        engine.roots := withRoot { root with live := root.live - 1 }
        engine.blockFree := p.engine.blockFree.push l
        path.queue := p.path.queue ++ [w (.branch b k.lot.toNat { entry with leaf := none, live := 0 })] }
      else { p with
        engine.roots := withRoot { root with branch := none, live := 0 }
        engine.blockFree := (p.engine.blockFree.push l).push b
        path.queue := p.path.queue ++ [w (.root k.consignor.toNat ⟨none, root.hold⟩)] }

/-- The fault list, the mode and the ports once a record fault with a lookup key has been declared on a slot (R130, R131): it is
listed at its position, or, behind 16 listed, counted unlisted, which passes RUNNING to READ_ONLY. -/
def Part.withFault (p : Part) (slot : Nat) (k : Key) : Part :=
  let faults := p.engine.faults
  let minute := fOptMinute p.zone.wallMinute
  if faults.length < 16 then
    { p with
      engine.faults := faults ++ [⟨slot, k, p.zone.wallMinute⟩]
      port := p.port.withNotice .recordFault ([⟨2, slot⟩, fKey k, ⟨1, 0⟩, ⟨1, faults.length⟩, ⟨2, faults.length + 1⟩,
        ⟨4, p.engine.unlisted⟩] ++ minute) }
  else
    let given := p.port.withNotice .recordFault
      ([⟨2, slot⟩, fKey k, ⟨1, 1⟩, ⟨2, faults.length⟩, ⟨4, p.engine.unlisted + 1⟩] ++ minute)
    { p with
      engine.unlisted := p.engine.unlisted + 1
      engine.mode := if p.engine.mode = .running then .readOnly else p.engine.mode
      port := if p.engine.mode = .running
        then given.withNotice .modeChange ([⟨1, 3⟩, ⟨1, 4⟩, ⟨1, 4⟩] ++ minute) else given }

/-- The part but for what the arbiter of the record-memory port has granted and has still to grant of reads (R128). -/
def Part.ungranted (p : Part) : Part :=
  { p with path.waiting := [], path.inFlight := none, path.lastGranted := .zone, path.lastOffered := .write }

/-- The record memory with the write in flight made whole (R127, R58, R23); a meter advance in flight is lost (R21, R208). -/
def Part.writeMade (p : Part) : RecordMemory :=
  match p.path.inFlight with
  | some .write =>
    (match p.path.queue with
      | w :: _ => p.mem.write w.body
      | [] => p.mem)
  | some .tally =>
    (match p.tally.writes with
      | w :: _ => { p.mem with tallies := tset p.mem.tallies w.n w.tally .free }
      | [] => p.mem)
  | some (.zone z r) => { p.mem with meters.zones := modifyAt p.mem.meters.zones z fun _ => r }
  | some (.advance _ _) | some (.read _) | none => p.mem

/-- A record memory that an abandoned access may leave: the write in flight whole, or the one before it, which for a meter
advance is the only one (R21); an abandoned CLEARING stands after some of its steps, with the signature not valid, short of the last (R134, R202, R209). -/
def Part.mayLeave (p : Part) (m : RecordMemory) : Prop :=
  ∃ w, (w = p.mem ∨ w = p.writeMade) ∧
    (if p.engine.mode = .rebuilding .clearing then ∃ k, 1 ≤ k ∧ k < 7 ∧ m = w.cleared k else m = w)

/-- Command `i` answers context `c`, which holds `x`, in the act: the next state has the books and the ports of `p`, but that
an answer with the context's code and tag, the status and the body has been composed for the context's port (R143, R157). -/
def Answers (i : Instr) (s : State) (c : Nat) (x : Context) (p : Part) (st : Status) (body : Body) : Prop :=
  ∃ t, exec i s = .next t ∧ t.pending = s.pending ∧ t.part.books = p.books
    ∧ t.part.port = p.port.withAnswer x.port
        { code := requestCode x.request, tag := x.tag, body := ⟨1, st.code⟩ :: body } (some c)

/-- Command `i` goes on from the performance of context `c` without an answer yet: the next state has the books and the ports of
`p`, and what is known of the context holds. -/
def GoesOn (i : Instr) (s : State) (c : Nat) (p : Part) (known : Context → Prop) : Prop :=
  ∃ t y, exec i s = .next t ∧ t.pending = s.pending ∧ t.part.books = p.books ∧ t.part.port = p.port
    ∧ t.part.ctx? c = some y ∧ known y

/-- Command `i` changes the record of a slot to `r`, and the record cache follows (R120, R124). -/
def Caches (i : Instr) (s : State) (slot : Nat) (r : CarrierRecord) : Prop :=
  ∃ t, exec i s = .next t ∧ t.part.path.cache = cacheAfter s.part.path.cache slot r

/-- No slot of a context is FAULTED, so that its answer removes no cache entry (R129). -/
def Part.unfaulted (p : Part) (x : Context) : Bool :=
  (x.slots ++ x.chainSlots).all fun n => p.slotAt n != .faulted

/-- Command `i` sends contexts other than `c` that were READY on a removed entry of the cache back to PROBING (R114, R119): each
key of theirs that had resolved to an entry `gone` holds of has been probed again and has missed, where a probe of it misses: it has
the pattern of the flush, or no entry has it for its primary key. -/
def Reprobes (i : Instr) (s : State) (c : Nat) (f : Flush) (gone : Nat → CacheEntry → Bool) : Prop :=
  ∃ t, exec i s = .next t ∧ ∀ d x, d ≠ c → s.part.ctx? d = some x → x.stage = .resolving →
    ∀ k ∈ x.keys, ∀ index slot n form e, k.res = .entry index slot n form →
      tfind s.part.path.cache index = some e → gone index e = true →
      (f.hits k.key = true ∨ ∀ a ∈ s.part.path.cache, a.2.record.primary ≠ k.key) →
      ∃ y, t.part.ctx? d = some y
        ∧ ∀ k' ∈ y.keys, k'.key = k.key → k'.res = .fetching ∨ k'.res = .missWait ∨ k'.res = .notFound

/-- A tally command has room in the command queue (R142). -/
def Part.roomToIssue (p : Part) : Bool := decide (p.tally.queue.length < Config.tallyQueueSize)

/-- No context waits for the command queue, which is full (R142). -/
def Part.noneWaits (p : Part) : Bool :=
  decide (p.tally.queue.length < Config.tallyQueueSize)
    || p.engine.contexts.all fun e => !e.2.active || e.2.toIssue.isEmpty

/-- The part once context `c` has issued a tally command (R142). -/
def Part.withCommand (p : Part) (c : Nat) (op : TallyOp) : Part :=
  { p with
    tally.queue := p.tally.queue ++ [({ id := p.tally.nextCmd, ctx := c, op := op } : TallyCmd)]
    tally.nextCmd := p.tally.nextCmd + 1 }

/-- The row that takes a tally command (R47 to R56). -/
def TallyOp.row : TallyOp → Instr
  | .create .. => .create
  | .arm .. => .arm
  | .move .. => .tallyMove
  | .seal .. => .tallySeal
  | .join .. => .join
  | .split .. => .split
  | .leave .. => .leave
  | .free .. => .free
  | .read .. => .read
  | .listDue .. => .listDueCommand

/-- The tally unit takes `cmd` next, and none of its checks fails (R43 to R45). -/
structure Part.Takes (p : Part) (cmd : TallyCmd) : Prop where
  quiet    : p.quiet = true
  next     : p.nextCommand = some cmd
  accepted : p.opRefusal cmd.op = none
  only     : ∀ d ∈ p.tally.queue, d.id = cmd.id → d = cmd
  noWrite  : ∀ w ∈ p.tally.writes, w.cmd ≠ some cmd.id

/-- The part once `cmd` is taken, with none of its acts done. -/
def Part.took (p : Part) (cmd : TallyCmd) : Part :=
  { p with
    tally.lastSource := .commands
    tally.queue := p.tally.queue.map fun d => if d.id = cmd.id then { d with taken := true } else d }

/-- The part once `cmd` has left the command queue. -/
def Part.without (p : Part) (cmd : TallyCmd) : Part :=
  { p with tally.queue := p.tally.queue.filter fun d => d.id != cmd.id }

/-- Context `c`, which holds `x`, waits for its one tally command and for nothing else, and the entry of the queue that the
command leaves is claimed by no context (R142, R143). -/
structure Part.Awaits (p : Part) (c : Nat) (x : Context) : Prop where
  context   : p.ctx? c = some x
  unanswered : x.stage ≠ .answered
  noIssue   : x.toIssue = []
  oneIssued : x.outstanding = 1
  noneWaits : p.noneWaits = true
  noWrite   : p.hasHeld c = false ∧ p.flushes c = false

/-- Context `c`, which holds `x`, has no command left and none of its writes is held: it waits for something else (R143). -/
structure Part.Waits (p : Part) (c : Nat) (x : Context) : Prop where
  context    : p.ctx? c = some x
  unanswered : x.stage ≠ .answered
  noCommand  : x.toIssue = [] ∧ x.outstanding = 0
  noHeld     : p.hasHeld c = false
  noStart    : x.request ≠ .restart ∧ x.request ≠ .format

/-- The record-memory port is making a client's read of a target, and no forwarded read of that client waits (R126, R128). -/
def Part.reads (p : Part) (client : ReadClient) (t : ReadTarget) : Prop :=
  p.path.returned.find? (fun r => r.read.client == client) = none ∧ p.path.inFlight = some (.read ⟨client, t, true⟩)

/-- A client's read of a target is to return a value: the record-memory port is making the read of what the memory holds, or
the read has been answered from the write stream (R126). -/
def Part.returns (p : Part) (client : ReadClient) (t : ReadTarget) (v : ReadValue) : Prop :=
  (p.reads client t ∧ v = p.mem.value t)
    ∨ p.path.returned.find? (fun r => r.read.client == client) = some ⟨⟨client, t, true⟩, v⟩

/-- A client's read of a target has been issued: it waits, is being made, or has been answered from the write stream (R126). -/
def Part.asked (p : Part) (client : ReadClient) (t : ReadTarget) : Prop :=
  ⟨client, t, true⟩ ∈ p.path.waiting ∨ p.path.inFlight = some (.read ⟨client, t, true⟩)
    ∨ ∃ v, ⟨⟨client, t, true⟩, v⟩ ∈ p.path.returned

/-- The write queue has room, so that a write is queued and none is held (R125). -/
def Part.roomToWrite (p : Part) (n : Nat) : Bool :=
  decide (p.path.queue.length + n ≤ Config.writeQueueSize) && p.path.held.isEmpty

/-- The part's tables have the sizes the manual gives them: 32 zones with their condition lines and occupancies, four bake
timers, four ports, 8 use counts. -/
def Part.sized (p : Part) : Bool :=
  p.lines.length == 32 && p.zone.zones.length == 32 && p.zone.timers.length == 4 && p.port.ports.length == 4
    && p.tally.occupancy.length == 32 && p.tally.useCounts.length == 8

/-- A port's queues are within their sizes (R176, R179, R182). -/
def Port.fits (q : Port) : Bool :=
  decide (q.outstanding ≤ Config.outstandingLimit) && decide (q.answers.length ≤ Config.answerQueueSize)
    && decide (q.notices.length ≤ Config.noticeQueueSize)

/-- No queue of the part holds more than it has room for: the write queue (R125), the tally command queue (R43), the fault
list (R130), and the queues of every port. -/
def Part.fits (p : Part) : Bool :=
  decide (p.path.queue.length ≤ Config.writeQueueSize) && decide (p.tally.queue.length ≤ Config.tallyQueueSize)
    && decide (p.engine.faults.length ≤ Config.faultListSize) && p.port.ports.all Port.fits

/-- The record memory is in its canonical form (log 33): every table has its indices strictly rising, and a table whose
unlisted entries have a value lists no entry of that value. -/
def RecordMemory.wf (m : RecordMemory) : Bool :=
  Table.wf {} m.roots && Table.wf .free m.bags && Table.wf .free m.tallies && Table.wf [1, 2, 3] m.settings.perms
    && Table.rising m.blocks && Table.rising m.records

end Sys2Proof.Machine
end

