-- ==== Sys2Proof/Certificates/Slice0/Obligations.lean ====
section
/-! DEFINITION. The statements about the model that the provers are given. `Part.quiet` (nothing is due in the act, log 1) and
`Part.Performs` (a context is to be performed, R140) stand for the conditions under which a row has its own effect; a frame is
said by giving the whole of the part after the row, but for what the arbiter grants (`Part.ungranted`, R128) where the row
waits for the record memory, and by the part's books (`Part.books`) where a context is answered. -/

open Sys2Proof Sys2Proof.Machine

/-! ### The machine and its queue -/

/-- A step runs the command at the front of the queue on the queue's rest. -/
def Obligations.StepRunsFrontCommand : Prop :=
  ∀ (i : Instr) (rest : List Instr) (p : Part), step { pending := i :: rest, part := p } = exec i { pending := rest, part := p }

/-- A command that names units of the part answers a next state in every state, and leaves the queue as it is. -/
def Obligations.WellFormedCommandCompletes : Prop :=
  ∀ (i : Instr) (s : State), i.wellFormed = true → ∃ p, exec i s = .next { s with part := p }

/-- The model's choices for a queue that is empty (the block idles, log 4) and for a command that names a unit the part does not
have (it faults by name, log 3): 16 contexts, 4 ports, 32 zones, 256 due lists, 8 miss file entries. -/
def Obligations.EmptyQueueIdlesAndAbsentUnitsFault : Prop :=
  (∀ p : Part, step { pending := [], part := p } = .next { pending := [], part := p })
  ∧ ∀ s : State,
         (∀ c, 16 ≤ c → ∀ mk ∈ [Instr.enroll, Instr.lookup, Instr.verify, Instr.openOne, Instr.multiKeyOpen, Instr.move, Instr.seal,
             Instr.retire, Instr.relabel, Instr.checkout, Instr.release, Instr.moveGroup, Instr.listBag, Instr.listDue,
             Instr.listCheckouts, Instr.holdCarrier, Instr.holdBag, Instr.holdLot, Instr.holdConsignor, Instr.unholdCarrier,
             Instr.unholdBag, Instr.unholdLot, Instr.unholdConsignor, Instr.climate, Instr.trip, Instr.clearTrip, Instr.bakeStart,
             Instr.bakeStop, Instr.status, Instr.classSet, Instr.bandSet, Instr.weightSet, Instr.zoneSet, Instr.portSet,
             Instr.consignorSet, Instr.routeSet, Instr.exemptSet, Instr.timeSet, Instr.forceRetire, Instr.faultClear,
             Instr.releaseAll, Instr.restart, Instr.format], exec (mk c) s = .fault .noSuchContext)
         ∧ (∀ i, 4 ≤ i → (∀ bytes, ∀ mk ∈ [Instr.loseSync, Instr.candidateRejected, Instr.wrongKindFrame, Instr.requestArrival],
               exec (mk i bytes) s = .fault .noSuchPort)
             ∧ exec (.answerQueued i) s = .fault .noSuchPort ∧ exec (.turnComplete i) s = .fault .noSuchPort)
         ∧ (∀ z, 32 ≤ z → (∀ a, exec (.conditionLineChange z a) s = .fault .noSuchZone)
             ∧ exec (.bakeComplete z) s = .fault .noSuchZone ∧ exec (.bakeWalkStep z) s = .fault .noSuchZone)
         ∧ (∀ l, 256 ≤ l → exec (.insertionWalkStep l) s = .fault .noSuchList ∧ exec (.listDueWalkStep l) s = .fault .noSuchList)
         ∧ (∀ e, 8 ≤ e → exec (.walkReadComplete e) s = .fault .noSuchEntry)

/-- Without its supply, or while the reset line is applied, the part takes no step (R202): every command but the three starts
and a condition line's change leaves the whole state, and a line's change leaves all but the pin. -/
def Obligations.PartWithoutSupplyTakesNoStep : Prop :=
  ∀ s : State, s.part.alive = false →
    (∀ i : Instr, i.wellFormed = true → i ≠ .powerOnReset → i ≠ .resetLineApplied → i ≠ .powerLoss →
      (∀ z a, i ≠ .conditionLineChange z a) → exec i s = .next s)
    ∧ (∀ z a, z < 32 → exec (.conditionLineChange z a) s =
        .next { s with part := { s.part with lines := modifyAt s.part.lines z fun _ => a } })

/-! ### What every step keeps -/

/-- Every step keeps the record memory in its canonical form. -/
def Obligations.StepKeepsRecordMemoryCanonical : Prop :=
  ∀ s t : State, s.part.mem.wf = true → step s = .next t → t.part.mem.wf = true

/-- Every step keeps the sizes of the tables: 32 zones, lines and occupancies, four bake timers, four ports, 8 use counts. -/
def Obligations.StepKeepsTableSizes : Prop :=
  ∀ s t : State, s.part.sized = true → step s = .next t → t.part.sized = true

/-- No step overfills a queue: at most 8 queued writes (R125), 32 tally commands (R43), 16 listed faults (R130), and at each
port 16 outstanding requests, 16 queued answers and 32 queued notices (R176, R179, R182). -/
def Obligations.StepKeepsQueuesWithinBounds : Prop :=
  ∀ s t : State, s.part.fits = true → step s = .next t → t.part.fits = true

/-- A queue of well-formed commands never stops the machine, and stays one. -/
def Obligations.WellFormedQueueNeverStops : Prop :=
  ∀ s : State, s.wellFormed = true → ∃ t, step s = .next t ∧ t.wellFormed = true

/-- The invariants hold at reset. -/
def Obligations.InvariantsHoldAtReset : Prop :=
  State.reset.part.mem.wf = true ∧ State.reset.part.sized = true ∧ State.reset.part.fits = true
    ∧ State.reset.wellFormed = true

/-- The values the manual states for power-on and the release of the reset line (R202, with R24, R59, R75, R91, R115, R134,
R158, R170, R186). -/
def Obligations.ResetLeavesThePowerOnValues : Prop :=
  let p := State.reset.part
  State.reset.pending = []
  ∧ p.engine.mode = .rebuilding .loadConfig ∧ p.zone.wallMinute = none ∧ p.zone.owed = 0 ∧ p.zone.timers = [none, none, none, none]
  ∧ p.zone.advance = none ∧ (∀ z ∈ p.zone.zones, z.lastReading = none ∧ z.stale = false ∧ z.presentBand = 0 ∧ z.bake = .idle)
  ∧ p.tally.queue = [] ∧ p.tally.marks = [] ∧ p.tally.lists = [] ∧ p.tally.armSeq = 0 ∧ p.tally.lastList = 255
  ∧ p.tally.lastSource = .commands ∧ p.tally.occupancy = List.replicate 32 0
  ∧ p.path.cache = [] ∧ p.path.counter = 0 ∧ p.path.missFile = [] ∧ p.path.missWait = [] ∧ p.path.queue = []
  ∧ p.path.held = [] ∧ p.path.inFlight = none ∧ p.path.lastGranted = .zone ∧ p.path.flush = none
  ∧ p.engine.contexts = [] ∧ p.engine.checkouts = [] ∧ p.engine.releaseAll = none ∧ p.engine.faults = []
  ∧ p.engine.unlisted = 0 ∧ p.engine.epoch = 0 ∧ p.engine.turn = []
  ∧ (∀ q ∈ p.port.ports, q.framer.mode = .hunt ∧ q.outstanding = 0 ∧ q.requests = [] ∧ q.answers = [] ∧ q.waitingAnswers = []
      ∧ q.notices = [] ∧ q.noticeNumber = 0 ∧ q.turn = none ∧ q.lastTurn = .notice ∧ q.requestOverrun = false
      ∧ q.noticeOverrun = false)

/-- The record memory is changed only by the completion of a write and by a start: while nothing is due in the act, every
other command leaves all of it. -/
def Obligations.OnlyCompletedWritesChangeRecordMemory : Prop :=
  ∀ (i : Instr) (s : State), s.part.quiet = true → i.wellFormed = true →
    i ≠ .queueWriteComplete → i ≠ .tallyWriteComplete → i ≠ .advanceVisible → i ≠ .gapChargeVisible →
    i ≠ .zoneRecordWriteDone → i ≠ .clearing → i ≠ .powerOnReset → i ≠ .resetLineApplied → i ≠ .powerLoss →
    ∃ t, exec i s = .next t ∧ t.part.mem = s.part.mem

/-! ### Starts and the rebuild (11) -/

/-- POWER_ON_RESET, RESET_LINE_APPLIED and POWER_LOSS (R202, R134): all on-chip state takes its power-on values, the pins stay,
and of the record memory only the access in flight is in doubt. When on-chip state is lost (log 26), the values that stand
until the rebuild has loaded them, of meters, dry counters, latches, line levels, root entries, slots, bags, tallies and
settings (log 7), that a start leaves the pins (log 6), and the free value of an abandoned access (logs 9 and 10) are the
model's choice. -/
def Obligations.ResetAndPowerLossThrowOnChipStateAway : Prop :=
  ∀ s : State, s.part.alive = false ∨ s.part.quiet = true →
    (∃ m, s.part.mayLeave m ∧ exec .powerOnReset s = .next { s with part :=
        { ({} : Part) with lines := s.part.lines, mem := m, free := s.part.free + 1 } })
    ∧ (∃ m, s.part.mayLeave m ∧ exec .resetLineApplied s = .next { s with part :=
        { ({} : Part) with power := s.part.power, resetLine := true, lines := s.part.lines, mem := m, free := s.part.free + 1 } })
    ∧ (∃ m, s.part.mayLeave m ∧ exec .powerLoss s = .next { s with part :=
        { ({} : Part) with power := false, resetLine := s.part.resetLine, lines := s.part.lines, mem := m
                           free := s.part.free + 1 } })

/-- RESTART_BEGINS and FORMAT_BEGINS (R208, R209, R186): the wall minute of a RESTART, the time base, the framers, the queued
answers and notices, the turns, flags and notice numbers stay; everything else on-chip takes its start values, which for what
the rebuild is still to load (meters, dry counters, latches, line levels, root entries, slots, bags, tallies, settings) are the
model's choice (log 7), as is the free value of an abandoned access (log 9). -/
def Obligations.RestartAndFormatKeepClockAndPorts : Prop :=
  ∀ s : State, s.part.alive = true →
    let kept : PortUnit := { ({} : PortUnit) with ports := s.part.port.ports.mapIdx fun i q =>
      { framer := q.framer, answers := q.answers, notices := q.notices, noticeNumber := q.noticeNumber, turn := q.turn
        lastTurn := q.lastTurn, requestOverrun := q.requestOverrun, noticeOverrun := q.noticeOverrun
        settings := if i = 0 then { caps := { supervise := true } } else {} } }
    (s.part.engine.startOwed = some .restart → ∃ m, s.part.mayLeave m ∧ exec .restartBegins s = .next { s with part :=
        { ({} : Part) with
          lines := s.part.lines, mem := m, free := s.part.free + 1, port := kept
          zone := { wallMinute := s.part.zone.wallMinute, timeBase := s.part.zone.timeBase }
          engine := { mode := .rebuilding .loadConfig, startKind := .restart } } })
    ∧ (s.part.engine.startOwed = some .format → ∃ m, s.part.mayLeave m ∧ exec .formatBegins s = .next { s with part :=
        { ({} : Part) with
          lines := s.part.lines, mem := m, free := s.part.free + 1, port := kept
          zone := { wallMinute := none, timeBase := s.part.zone.timeBase }
          engine := { mode := .rebuilding .clearing, startKind := .format } } })

/-- CLEARING (R209): the meter, tally, root, bag and configuration areas take their formatted contents and the signature
becomes valid; the table-block and record areas are not written. -/
def Obligations.ClearingWritesAllButBlocksAndRecords : Prop :=
  ∀ s : State, s.part.quiet = true → s.part.engine.mode = .rebuilding .clearing →
    exec .clearing s = .next { s with part := { s.part with
      mem := { signature := true, settings := {}, meters := {}, roots := [], bags := [], tallies := []
               blocks := s.part.mem.blocks, records := s.part.mem.records }
      engine.mode := .rebuilding .loadConfig } }

/-- LOAD_CONFIG (R203): with a valid signature every setting is loaded into its block and the phase passes on; without one the
mode passes to UNFORMATTED and a MODE_CHANGE notice is given, whose optional minute is the model's choice (log 65). -/
def Obligations.LoadConfigLoadsEverySetting : Prop :=
  ∀ s : State, s.part.quiet = true → s.part.engine.mode = .rebuilding .loadConfig →
    (s.part.mem.signature = true →
      let m := s.part.mem.settings
      exec .loadConfig s = .next { s with part := { s.part with
        zone := { s.part.zone with
          classes := m.classes, bands := m.bands, pendBands := m.bands, weights := m.weights, pendWeights := m.weights
          zones := s.part.zone.zones.mapIdx fun i z =>
            let c := m.zones.getD i {}
            { z with kind := c.kind, capacity := c.capacity, fallback := c.fallback, staleLimit := c.staleLimit
                     lineMode := c.lineMode, pendCapacity := c.capacity, pendFallback := c.fallback
                     pendStaleLimit := c.staleLimit } }
        port := { ports := s.part.port.ports.mapIdx fun i q => { q with settings := m.ports.getD i {} }, routing := m.routing }
        engine.exempt := m.exempt
        engine.roots := m.perms.foldl (fun t e => tset t e.1 ({ tget t e.1 {} with ports := e.2 } : RootEntry) {})
          s.part.engine.roots
        engine.mode := .rebuilding .loadZones } })
    ∧ (s.part.mem.signature = false →
      exec .loadConfig s = .next { s with part := { s.part with
        engine.mode := .unformatted
        port := s.part.port.withNotice .modeChange ([⟨1, 1⟩, ⟨1, 0⟩, ⟨1, 0⟩] ++ fOptMinute s.part.zone.wallMinute) } })

/-- LOAD_ZONES (R204, R91): meters, dry-minute counters, trip latches and the last-advance minute are loaded, every bake ends
with its notice and its zone record written back, and every condition line is sampled. That the bakes end in ascending zone number
(log 60), and that the requested minutes stand in the meter area (log 32), is the model's choice. -/
def Obligations.LoadZonesLoadsTheMeterArea : Prop :=
  ∀ s : State, s.part.quiet = true → s.part.engine.mode = .rebuilding .loadZones →
    let area := s.part.mem.meters
    let rec_ := fun i => area.zones.getD i {}
    ∃ t, exec .loadZones s = .next t ∧ t.pending = s.pending ∧ t.part.ungranted = ({ s.part with
      zone := { s.part.zone with
        zones := s.part.zone.zones.mapIdx fun i z =>
          { z with meters := (rec_ i).meters, metersComputed := (rec_ i).meters, dry := (rec_ i).dry, dryComputed := (rec_ i).dry
                   tripLatch := (rec_ i).tripLatch, bake := .idle, lineLevel := s.part.lines.getD i false }
        lastAdvance := area.last
        linesTaken := true
        writes := s.part.zone.writes ++ ((List.range 32).filter fun i => (rec_ i).bake != .idle).map fun i => ZoneWrite.zone i none }
      port := (List.range 32).foldl (fun u i => match (rec_ i).bake with
        | .idle => u
        | .running n m | .completing n m => u.withNotice .bakeAborted
            ([⟨1, i⟩, ⟨1, 2⟩, ⟨1, n⟩, ⟨2, m⟩, ⟨2, m - (rec_ i).remaining⟩] ++ fOptMinute s.part.zone.wallMinute)) s.part.port
      engine.mode := .rebuilding .scanDirectory } : Part).ungranted

/-- SCAN_DIRECTORY (R205, R98, R129, R134), for every directory: the phase passes on, a slot that a leaf entry still names is
LIVE when its stored record carries the right check word and FAULTED when not, every other slot is FREE, and the slot free list
holds exactly the FREE slots, ascending; the free block list holds exactly the blocks that no root or branch entry refers to,
and the free bag list, over a bag table not yet read, the FREE bags. On root entries as LOAD_CONFIG leaves them, an entry whose
key a sound record does not name, or whose carrier tally is FREE, is removed; where there is none such, every entry stays.
There the slots named are judged in ascending order: one that fails its check is a fault, listed with the key of the first
entry found, or counted unlisted (R130, R134), with its notice; of a sound record a tally link that its tallies do not bear out
becomes OWN, an own carrier's FOLLOWING tally is an orphaned follower, a checkout index and a watch set are cleared with their
RELEASED notices, and a record so changed is written once; and each bag's member list is rebuilt from the records (R75). The
record memory, the zone unit and the tally unit are not changed, but for the orphaned followers. Over an empty directory every
slot, every block and every bag is free. That a slot with no stored record at all fails its check (log 27), that the first
entry found is the one of the lowest key (log 58), that the rows are judged on the evolving record (log 22), and the free value
of a created minute (log 11) are the model's choice. -/
def Obligations.ScanDirectoryRebuildsTheSlots : Prop :=
  ∀ s : State, s.part.quiet = true → s.part.engine.mode = .rebuilding .scanDirectory →
    let sound := fun (n : Nat) (r : CarrierRecord) => tfind s.part.mem.records n = some ⟨r, checkWordOf n r⟩
    let opened : Part := { s.part with engine.roots := s.part.mem.roots.foldl (fun t e =>
      tset t e.1 ({ tget t e.1 {} with branch := e.2.branch, hold := e.2.hold } : RootEntry) {}) s.part.engine.roots }
    let loaded := s.part.mem.settings.perms.foldl (fun t e =>
      tset t e.1 ({ tget t e.1 {} with ports := e.2 } : RootEntry) {}) []
    let strays := fun (k : Key) (n : Nat) => ∃ r, sound n r
      ∧ ((k ≠ r.primary ∧ k ∉ r.aliases) ∨ tget s.part.mem.tallies n .free = .free)
    let stored := fun (n : Nat) => match tfind s.part.mem.records n with
      | some st => if st.check = checkWordOf n st.record then some st.record else none
      | none => none
    let follows := fun (n : Nat) => match tget s.part.mem.tallies n .free with
      | .following .. => true
      | _ => false
    let houses := fun (b : Nat) => match tget s.part.mem.tallies (65536 + b) .free with
      | .resident _ => true
      | _ => false
    let own := fun (n : Nat) (r : CarrierRecord) => match r.link with
      | none => true
      | some b => !(follows n && houses b)
    let righted := fun (n : Nat) (r : CarrierRecord) =>
      { r with link := if own n r then none else r.link, checkout := none, watch := [] }
    let judged := fun (p : Part) (n : Nat) => match stored n with
      | some r => if r.checkout.isSome || r.watch != [] then p.giveReleased r .start none none else p
      | none => match opened.leafEntries.find? (fun e => e.2 == n) with
        | some e => p.withFault n e.1
        | none => p
    ∃ t, exec .scanDirectory s = .next t ∧ t.pending = s.pending
      ∧ t.part.engine.mode = .rebuilding .scanTallies ∧ t.part.mem = s.part.mem ∧ t.part.zone = s.part.zone
      ∧ (∃ orphans, t.part.tally = { s.part.tally with orphans := orphans })
      ∧ (∀ n, t.part.slotAt n = .live ∨ t.part.slotAt n = .faulted ∨ t.part.slotAt n = .free)
      ∧ (∀ n, n < 65536 → (n ∈ t.part.engine.slotFree.numbers ↔ t.part.slotAt n = .free))
      ∧ t.part.engine.slotFree.numbers.Pairwise (· < ·)
      ∧ (∀ b, b < 1024 → (b ∈ t.part.engine.blockFree.numbers ↔ ∀ e ∈ t.part.engine.roots, e.2.branch ≠ some b
          ∧ ∀ l, e.2.branch = some l → ∀ x ∈ t.part.branchTable l, x.2.leaf ≠ some b))
      ∧ t.part.engine.blockFree.numbers.Pairwise (· < ·)
      ∧ (s.part.engine.bags = [] →
          (∀ b, b < 4096 → (b ∈ t.part.engine.bagFree.numbers ↔ t.part.bagAt b = .free))
          ∧ t.part.engine.bagFree.numbers.Pairwise (· < ·))
      ∧ (s.part.mem.wf = true → s.part.engine.roots = loaded → ∀ slots : List Nat, slots.Pairwise (· < ·) →
          (∀ n, n ∈ slots ↔ ∃ k, (k, n) ∈ opened.leafEntries) →
          let declared := slots.foldl judged s.part
          t.part.engine.faults = declared.engine.faults ∧ t.part.engine.unlisted = declared.engine.unlisted
          ∧ (s.part.path.waiting = [] → s.part.path.returned = [] → (∀ r, s.part.path.inFlight ≠ some (.read r)) →
              t.part.port = declared.port)
          ∧ t.part.tally.orphans = s.part.tally.orphans
              ++ slots.filter (fun n => (stored n).any (fun r => own n r) && follows n)
          ∧ (∀ n ∈ slots, ∀ r, stored n = some r → streamValue t.part.stream (.record n) =
              if righted n r = r then streamValue s.part.stream (.record n) else some (.record (some (righted n r)) true))
          ∧ (s.part.engine.slots = [] → s.part.engine.bags = [] → s.part.stream = [] → ∀ live : List Nat,
              live.Pairwise (· < ·) → (∀ n, n ∈ live ↔ t.part.slotAt n = .live) → ∀ b,
              let members := live.filterMap fun n => (stored n).bind fun r =>
                if (righted n r).link = some b then some (n, r.primary) else none
              t.part.bagAt b = if members = [] then .free else match tget s.part.mem.bags b .free with
                | .live _ hold created => .live members hold created
                | .closing hold created => .live members hold created
                | .free => .live members none (Config.unstatedMinute s.part.free)))
      ∧ (s.part.engine.slots = [] → ∀ n,
          let named := ∃ k, (k, n) ∈ t.part.leafEntries
          (named → (∃ r, sound n r) → t.part.slotAt n = .live)
          ∧ (named → (∀ r, ¬ sound n r) → t.part.slotAt n = .faulted)
          ∧ (¬ named → t.part.slotAt n = .free))
      ∧ (s.part.mem.wf = true → s.part.engine.roots = loaded →
          (∀ k n, (k, n) ∈ opened.leafEntries → strays k n → (t.part.leafAt k).slot? ≠ some n)
          ∧ ((∀ k n, (k, n) ∈ opened.leafEntries → ¬ strays k n) → t.part.leafEntries = opened.leafEntries))
      ∧ (s.part.mem.roots = [] → s.part.mem.bags = [] → s.part.engine.roots = [] → s.part.engine.bags = [] →
          t.part = { s.part with
            engine.slots := [], engine.slotFree := [(0, 65536)], engine.blockFree := [(0, 1024)]
            engine.bagFree := [(0, 4096)], engine.mode := .rebuilding .scanTallies })

/-- SCAN_TALLIES (R206): each tally is reconciled with its owner, row by row. For every tally area: the tally table holds the
reconciled tallies without the marks the area held; use counts and occupancies are recounted from them, a capacity in force
below the occupancy is raised to it, and every list of a listed class is re-formed of its RESIDENT tallies in ascending due mark
with marks and flags made afresh against the loaded meter. After RESTART the gap charge begins on the wall minute as it stands,
otherwise the part waits for its time. Over a tally area that lists nothing, no tally, no list and no occupancy stands, and a
MODE_CHANGE notice of cause REBUILT is given, whose optional minute is the model's choice (log 65), as is that the reads of the
phase take no turn at the arbiter of the record-memory port (log 90). -/
def Obligations.ScanTalliesReconcilesAndEndsTheScans : Prop :=
  (∀ (p : Part) (n : Nat) (t : Tally),
       (n < 65536 → p.slotAt n = .free → p.reconciled n t = .free)
       ∧ (n < 65536 → p.slotAt n ≠ .free → n ∈ p.tally.orphans → ∀ owner cls, t = .following owner cls →
           ∀ minute, p.zone.wallMinute = some minute ∨ (p.zone.wallMinute = none ∧ p.zone.lastAdvance = some minute) →
           p.reconciled n t = .sealed owner cls (if (p.classAt cls).budget = 0 then {}
             else { banked := (p.classAt cls).budget * 16, warned := true, expiredAt := some minute }))
       ∧ (n < 65536 → p.slotAt n ≠ .free → (n ∉ p.tally.orphans ∨ t.isFollowing = false) → p.reconciled n t = t)
       ∧ (65536 ≤ n → p.bagAt (n - 65536) = .free → p.reconciled n t = .free)
       ∧ (65536 ≤ n → ∀ ms h created, p.bagAt (n - 65536) = .live ms h created →
           (∀ r, t = .resident r → p.reconciled n t = .resident { r with members := some ms.length })
           ∧ ((∀ r, t ≠ .resident r) → p.reconciled n t = t)))
  ∧ ∀ s : State, s.part.quiet = true → s.part.engine.mode = .rebuilding .scanTallies →
         let kept : Table Tally := s.part.mem.tallies.map fun e => (e.1, s.part.reconciled e.1 e.2)
         let listed := fun (cls : Nat) => (s.part.classAt cls).budget ≠ 0
         ∃ t, exec .scanTallies s = .next t ∧ t.pending = s.pending ∧ t.part.mem = s.part.mem
           ∧ (s.part.engine.startKind = .restart → t.part.engine.mode = .rebuilding .chargeGap
               ∧ ∀ m, s.part.zone.wallMinute = some m →
                   t.part.zone.advance = some { minute := m, gap := true, issued := true } ∧ t.part.zone.wallMinute = some m)
           ∧ (s.part.engine.startKind ≠ .restart → t.part.engine.mode = .awaitTime)
           ∧ (Table.wf .free s.part.mem.tallies = true → s.part.tally.lists = [] →
               (∀ n r, tget kept n .free = .resident r → r.zone < 32 ∧ r.cls < 8) →
               t.part.tally.orphans = []
               ∧ t.part.tally.useCounts = (List.range 8).map (fun cls => kept.countP fun e => e.2.cls? == some cls)
               ∧ t.part.tally.occupancy = (List.range 32).map (fun z => (kept.map fun e => match e.2 with
                   | .resident r => if r.zone = z then r.members.getD 1 else 0
                   | _ => 0).sum)
               ∧ (s.part.engine.startKind ≠ .restart → t.part.zone.zones = s.part.zone.zones.mapIdx fun i z =>
                   let o := t.part.tally.occupancy.getD i 0
                   { z with capacity := if z.capacity ≠ 0 ∧ z.capacity < o then o else z.capacity })
               ∧ (∀ n, (∀ r, tget kept n .free ≠ .resident r) → t.part.tallyAt n = tget kept n .free)
               ∧ (∀ n r, tget kept n .free = .resident r →
                   let m := s.part.meterAt r.zone r.cls
                   let due := (s.part.marksOf r).1
                   let warn := (s.part.marksOf r).2
                   (¬ listed r.cls → t.part.tallyAt n = .resident { r with marks := none })
                   ∧ (listed r.cls → ∃ a k, t.part.tallyAt n = .resident { r with acct := a, marks := some k }
                     ∧ k.due = due ∧ k.warn = warn ∧ n ∈ (t.part.listAt (r.zone * 8 + r.cls)).order
                     ∧ (r.acct.expiredAt ≠ none → a = r.acct)
                     ∧ (r.acct.expiredAt = none → due ≤ m →
                         a = { r.acct with warned := true, expiredAt := some s.part.expiryMinute })
                     ∧ (r.acct.expiredAt = none → m < due → a = { r.acct with warned := decide (warn ≤ m) })))
               ∧ (∀ l, l < 256 →
                   let d := t.part.listAt l
                   (¬ listed (l % 8) → d = {})
                   ∧ (listed (l % 8) → d.order.Nodup ∧ d.order.Pairwise (fun a b => t.part.dueOf a ≤ t.part.dueOf b)
                     ∧ (∀ n ∈ d.order, ∃ r, tget kept n .free = .resident r ∧ r.zone * 8 + r.cls = l)
                     ∧ d.walk = none ∧ d.busy = false
                     ∧ d.expiryCursor = d.order.find? (fun n => match t.part.tallyAt n with
                         | .resident r => r.acct.expiredAt.isNone
                         | _ => false)
                     ∧ d.warnCursor = d.order.find? (fun n => match t.part.tallyAt n with
                         | .resident r => !r.acct.warned
                         | _ => false))))
           ∧ (s.part.engine.startKind ≠ .restart → s.part.mem.tallies = [] → s.part.tally.lists = [] →
               t.part = { s.part with
                 tally := { s.part.tally with
                   table := [], orphans := [], useCounts := List.replicate 8 0, occupancy := List.replicate 32 0 }
                 free := s.part.free + 1
                 engine.mode := .awaitTime
                 port := s.part.port.withNotice .modeChange ([⟨1, 1⟩, ⟨1, 2⟩, ⟨1, 1⟩] ++ fOptMinute s.part.zone.wallMinute) })

/-! ### The zone unit (01, 04) -/

/-- Step 2 of the minute's zone work, with step 3's reading of the same bake state (R20). -/
def Obligations.ZoneWorkAdvancesByKindAndCondition : Prop :=
  ∀ (p : Part) (minute z : Nat), z < p.zone.zones.length →
    let zn := (p.staleRefresh minute z).zoneAt z
    let charged := fun (band : Nat) => { zn with
      metersComputed := zn.metersComputed.mapIdx fun cls m => min (m + (p.zone.weights.getD band []).getD cls 0) (2 ^ 40 - 1) }
    let q := p.workZone minute z
    (zn.kind = .floor →
      q.zoneAt z = charged (if zn.tripped || zn.stale then zn.fallback else zn.presentBand))
    ∧ (zn.kind = .dry → zn.tripped = false → zn.stale = false →
      q.zoneAt z = { zn with dryComputed := min (zn.dryComputed + 1) 4294967295 })
    ∧ (zn.kind = .dry → zn.tripped = true ∨ zn.stale = true → q.zoneAt z = charged zn.fallback)
    ∧ (zn.kind = .oven → zn.bake = .idle →
      q.zoneAt z = charged (if zn.tripped || zn.stale then zn.fallback else zn.presentBand))
    ∧ (zn.kind = .oven → zn.bake ≠ .idle → q.zoneAt z = zn)
    ∧ (∀ n m, zn.bake = .running n m → q.zone.timers = modifyAt p.zone.timers n fun tm =>
        tm.map fun tm => { tm with remaining := tm.remaining - 1 })
    ∧ ((∀ n m, zn.bake ≠ .running n m) → q.zone.timers = p.zone.timers)
    ∧ ∀ z', z' ≠ z → q.zoneAt z' = p.zoneAt z'

/-- MINUTE_TICK (R1, R2, R8, R11, R12, R19 to R21, R23, R80, R192): discarded while the wall minute is unset; otherwise the minute
rises, and the tick's work is done, owed, or left to the gap charge. The work applies the pending settings, refreshes the stale
flags and gives ZONE_STALE where one is newly set, advances every zone, counts the running bakes down, and writes the advance at
once unless a bake is to complete first. That the work is one act, with the zones' notices in zone order, and that a zone record
that waits takes its contents before it, is the model's choice (logs 13 and 31). -/
def Obligations.MinuteTickMovesTheClockAndTheZones : Prop :=
  ∀ s : State, s.part.quiet = true → s.part.sized = true →
    (s.part.zone.wallMinute = none → exec .minuteTick s = .next s)
    ∧ (∀ m, s.part.zone.wallMinute = some m →
        let m' := if m = 4294967295 then 0 else m + 1
        (s.part.zone.advance = none → s.part.engine.mode ≠ .running → s.part.engine.mode ≠ .readOnly →
          exec .minuteTick s = .next { s with part := { s.part with zone.wallMinute := some m' } })
        ∧ (s.part.zone.advance ≠ none → exec .minuteTick s = .next { s with part := { s.part with
            zone.wallMinute := some m', zone.owed := min (s.part.zone.owed + 1) 255 } })
        ∧ (s.part.zone.advance = none → s.part.engine.mode = .running ∨ s.part.engine.mode = .readOnly →
          let zn := fun (z : Nat) => (s.part.zoneAt z).applyPending (s.part.tally.occupancy.getD z 0)
          let waiting := s.part.zone.writes.map fun w => match w with
            | .zone z none => .zone z (some (s.part.zoneRecord z))
            | w => w
          ∃ t issued, exec .minuteTick s = .next t ∧ t.pending = s.pending
            ∧ t.part.zone.wallMinute = some m' ∧ t.part.zone.advance = some { minute := m', gap := false, issued := issued }
            ∧ t.part.zone.bands = s.part.zone.pendBands ∧ t.part.zone.weights = s.part.zone.pendWeights
            ∧ t.part.zone.owed = s.part.zone.owed ∧ t.part.zone.orders = s.part.zone.orders
            ∧ (∀ z, z < 32 → t.part.zoneAt z =
                Zone.advanced s.part.zone.pendWeights { zn z with stale := (zn z).staleAt m' })
            ∧ t.part.zone.timers = (List.range 32).foldl (fun timers z => match (s.part.zoneAt z).bake with
                | .running n _ => modifyAt timers n fun b => b.map fun b => { b with remaining := b.remaining - 1 }
                | _ => timers) s.part.zone.timers
            ∧ t.part.port = (List.range 32).foldl (fun u z =>
                if (zn z).staleAt m' && !(zn z).stale then
                  u.withNotice .zoneStale ([⟨1, z⟩, ⟨4, m'⟩] ++ fOptMinute (zn z).lastReading ++ [⟨1, (zn z).staleLimit⟩])
                else u) s.part.port
            ∧ (issued = false ↔ ∃ z n k, z < 32 ∧ (s.part.zoneAt z).bake = .running n k
                ∧ t.part.zone.timers.getD n none = some { zone := z, remaining := 0 })
            ∧ t.part.zone.writes = (if issued then waiting ++ [.advance (t.part.advanceArea m') false] else waiting)
            ∧ (∀ z, z < 32 →
                let r := (t.part.advanceArea m').zones.getD z {}
                r.meters = (t.part.zoneAt z).metersComputed ∧ r.dry = (t.part.zoneAt z).dryComputed
                  ∧ r.bake = (t.part.zoneAt z).bake ∧ r.tripLatch = (t.part.zoneAt z).tripLatch
                  ∧ ∀ n k b, (t.part.zoneAt z).bake = .running n k → t.part.zone.timers.getD n none = some b →
                      r.remaining = b.remaining)
            ∧ (t.part.advanceArea m').last = some m'
            ∧ t.part.mem = s.part.mem ∧ t.part.tally = s.part.tally ∧ t.part.engine = s.part.engine
            ∧ t.part.path.queue = s.part.path.queue ∧ t.part.path.cache = s.part.path.cache))

/-- BAKE_COMPLETE (R80, R21, R23): a timer at 0 completes its bake; the timer is freed, a bake walk order is prepared, and with the
last of them the advance is written, with the computed values and the bake states as they then stand, behind the writes that
waited when its work began. That the completions belong to the act of the zone work, and that the advance waits for the last of
them, is the model's choice (logs 13 and 31). -/
def Obligations.BakeCompleteFreesTheTimer : Prop :=
  ∀ (s : State) (z n m : Nat), s.part.alive = true → s.part.engine.startOwed = none → s.part.path.owedProbes = [] → z < 32 →
    s.part.sized = true →
    (s.part.zoneAt z).bake = .running n m → s.part.zone.timers[n]? = some (some { zone := z, remaining := 0 }) →
    ∃ t, exec (.bakeComplete z) s = .next t ∧ t.pending = s.pending
      ∧ t.part.zone.zones = modifyAt s.part.zone.zones z (fun zn => { zn with bake := .completing n m })
      ∧ t.part.zone.timers = modifyAt s.part.zone.timers n (fun _ => none)
      ∧ t.part.zone.orders = s.part.zone.orders ++ [{ zone := z, minutes := m }]
      ∧ (∀ a, s.part.zone.advance = some a → a.issued = false → (∀ z', z' < 32 → z' ≠ z → s.part.bakeDueAt z' = false) →
          t.part.zone.advance = some { a with issued := true }
          ∧ ∃ area, area = t.part.advanceArea a.minute ∧ area.last = some a.minute
            ∧ (∀ i, i < 32 →
                (area.zones.getD i {}).meters = (s.part.zoneAt i).metersComputed
                ∧ (area.zones.getD i {}).dry = (s.part.zoneAt i).dryComputed
                ∧ (area.zones.getD i {}).tripLatch = (s.part.zoneAt i).tripLatch
                ∧ (area.zones.getD i {}).bake = if i = z then .completing n m else (s.part.zoneAt i).bake)
            ∧ (∀ before after, s.part.zone.writes = before ++ after → (∀ w ∈ before, ∀ i, w ≠ .zone i none) →
                (∀ w rest, after = w :: rest → ∃ i, w = .zone i none) →
                t.part.zone.writes = before ++ .advance area a.gap :: after))
      ∧ (s.part.zone.advance = none ∨ (∃ z', z' < 32 ∧ z' ≠ z ∧ s.part.bakeDueAt z' = true) →
          t.part.zone.advance = s.part.zone.advance ∧ t.part.zone.writes = s.part.zone.writes)
      ∧ t.part.tally = s.part.tally ∧ t.part.engine = s.part.engine ∧ t.part.port = s.part.port ∧ t.part.mem = s.part.mem

/-- ADVANCE_VISIBLE (R21, R22): the written advance becomes visible, with its marks; and GAP_CHARGE_VISIBLE (R207), which passes
the mode on besides (no order and no owed tick standing). The bake walk orders prepared with an advance are handed to the tally
unit then, and an owed tick's work begins (R2, R46). ZONE_RECORD_WRITE_DONE (R23): the meter area holds the zone's record. A
zone record is offered to the arbiter with the visible meters and with latch and bake as they stand then; one that arose during
zone work waits until the advance is among the writes; one that waited when the work began keeps the contents it had there, which
is the model's choice (log 31), as is the optional minute of a MODE_CHANGE (log 65). -/
def Obligations.ZoneUnitWritesReachTheMeterArea : Prop :=
  (∀ (s : State) (area : MeterArea) (gap : Bool), s.part.quiet = true →
       s.part.path.inFlight = some (.advance area gap) → s.part.zone.orders = [] → s.part.zone.owed = 0 →
       let shown : Part := { s.part with
         mem.meters := area
         zone := { s.part.zone with
           zones := s.part.zone.zones.map fun z => { z with meters := z.metersComputed, dry := z.dryComputed }
           lastAdvance := area.last, advance := none, writes := s.part.zone.writes.drop 1 }
         tally.marks := ((List.range 256).filter fun l => (s.part.zoneAt (l / 8)).meters.getD (l % 8) 0
           != (s.part.zoneAt (l / 8)).metersComputed.getD (l % 8) 0).foldl (fun ms l => insertSorted l ms) s.part.tally.marks }
       (gap = false → ∃ t, exec .advanceVisible s = .next t ∧ t.pending = s.pending ∧ t.part.ungranted = shown.ungranted)
       ∧ (gap = true →
           let entered : Mode := if s.part.engine.unlisted = 0 then .running else .readOnly
           ∃ t, exec .gapChargeVisible s = .next t ∧ t.pending = s.pending ∧ t.part.ungranted = ({ shown with
             engine.mode := entered
             port := s.part.port.withNotice .modeChange ([⟨1, s.part.engine.mode.code⟩, ⟨1, entered.code⟩,
               ⟨1, if s.part.engine.unlisted = 0 then 2 else 3⟩] ++ fOptMinute s.part.zone.wallMinute) } : Part).ungranted))
  ∧ (∀ (s : State) (area : MeterArea), s.part.quiet = true → s.part.path.inFlight = some (.advance area false) →
         ∃ t, exec .advanceVisible s = .next t ∧ t.pending = s.pending ∧ t.part.zone.orders = []
           ∧ t.part.mem.meters = area
           ∧ t.part.tally.bakeWalks = s.part.tally.bakeWalks
               ++ s.part.zone.orders.map (fun o => { zone := o.zone, minutes := o.minutes })
           ∧ (∀ o ∈ s.part.zone.orders, ∀ cls, cls < 8 → (s.part.listAt (o.zone * 8 + cls)).walk = none →
               (t.part.listAt (o.zone * 8 + cls)).busy = true)
           ∧ (∀ m, s.part.zone.wallMinute = some m → 0 < s.part.zone.owed →
               t.part.zone.owed = s.part.zone.owed - 1
               ∧ ∃ issued, t.part.zone.advance = some { minute := m, gap := false, issued := issued }))
  ∧ (∀ (s : State) (z : Nat) (r : ZoneRecord), s.part.quiet = true → s.part.path.inFlight = some (.zone z r) →
         ∃ t, exec .zoneRecordWriteDone s = .next t ∧ t.pending = s.pending
           ∧ t.part.ungranted = ({ s.part with
               zone.writes := s.part.zone.writes.drop 1
               mem.meters.zones := modifyAt s.part.mem.meters.zones z fun _ => r } : Part).ungranted)
  ∧ ∀ (p : Part) (z : Nat) (rest : List ZoneWrite),
         let zn := p.zoneAt z
         ((p.zoneRecord z).meters = zn.meters ∧ (p.zoneRecord z).dry = zn.dry ∧ (p.zoneRecord z).bake = zn.bake
           ∧ (p.zoneRecord z).tripLatch = zn.tripLatch
           ∧ ∀ n k b, zn.bake = .running n k → p.zone.timers.getD n none = some b → (p.zoneRecord z).remaining = b.remaining)
         ∧ (p.zone.writes = .zone z none :: rest → (∀ a, p.zone.advance = some a → a.issued = true) →
             p.offerOf .zone = some (.zone z (p.zoneRecord z)))
         ∧ (∀ a, p.zone.writes = .zone z none :: rest → p.zone.advance = some a → a.issued = false →
             p.offerOf .zone = none)
         ∧ (∀ r, p.zone.writes = .zone z (some r) :: rest → p.offerOf .zone = some (.zone z r))

/-- CONDITION_LINE_CHANGE (R13, R14, R83): the level is recorded in every line mode, an assertion sets the latch in EDGE mode;
a passage from clear to tripped gives ZONE_TRIP and aborts a running bake. Before LOAD_ZONES has ended only the pin changes. -/
def Obligations.ConditionLineEventTripsTheZone : Prop :=
  ∀ (s : State) (z : Nat) (a : Bool), s.part.quiet = true → s.part.sized = true → z < 32 →
    (s.part.lines.getD z false = a → exec (.conditionLineChange z a) s = .next s)
    ∧ (s.part.lines.getD z false ≠ a → s.part.zone.linesTaken = false →
        exec (.conditionLineChange z a) s = .next { s with part := { s.part with
          lines := modifyAt s.part.lines z fun _ => a } })
    ∧ (s.part.lines.getD z false ≠ a → s.part.zone.linesTaken = true →
        let zn := s.part.zoneAt z
        let zn' := { zn with lineLevel := a, tripLatch := zn.tripLatch || (a && zn.lineMode == .edge) }
        let cause := if zn.lineMode = .edge then 1 else 0
        (zn.tripped = true ∨ zn'.tripped = false →
          ∃ t, exec (.conditionLineChange z a) s = .next t ∧ t.pending = s.pending ∧ t.part.ungranted = ({ s.part with
            lines := modifyAt s.part.lines z fun _ => a
            zone.zones := modifyAt s.part.zone.zones z fun _ => zn'
            zone.writes := s.part.zone.writes ++ if zn'.tripLatch = zn.tripLatch then [] else [.zone z none] } : Part).ungranted)
        ∧ (zn.tripped = false → zn'.tripped = true → (zn.kind ≠ .oven ∨ ∀ n m, zn.bake ≠ .running n m) →
          ∃ t, exec (.conditionLineChange z a) s = .next t ∧ t.pending = s.pending ∧ t.part.ungranted = ({ s.part with
            lines := modifyAt s.part.lines z fun _ => a
            zone.zones := modifyAt s.part.zone.zones z fun _ => zn'
            zone.writes := s.part.zone.writes ++ if zn'.tripLatch = zn.tripLatch then [] else [.zone z none]
            port := s.part.port.withNotice .zoneTrip ([⟨1, z⟩, ⟨1, cause⟩] ++ fOptMinute s.part.zone.wallMinute ++ [⟨1, 0⟩])
            } : Part).ungranted)
        ∧ (zn.tripped = false → zn'.tripped = true → zn.kind = .oven → ∀ n m b, zn.bake = .running n m →
            s.part.zone.timers[n]? = some (some b) →
          ∃ t, exec (.conditionLineChange z a) s = .next t ∧ t.pending = s.pending
            ∧ t.part.lines = modifyAt s.part.lines z (fun _ => a)
            ∧ t.part.zone.zones = modifyAt s.part.zone.zones z (fun _ => { zn' with bake := .idle })
            ∧ t.part.zone.timers = modifyAt s.part.zone.timers n (fun _ => none)
            ∧ ZoneWrite.zone z none ∈ t.part.zone.writes
            ∧ t.part.port = (s.part.port.withNotice .zoneTrip
                ([⟨1, z⟩, ⟨1, cause⟩] ++ fOptMinute s.part.zone.wallMinute ++ [⟨1, 1⟩])).withNotice .bakeAborted
                ([⟨1, z⟩, ⟨1, 1⟩, ⟨1, n⟩, ⟨2, m⟩, ⟨2, m - b.remaining⟩] ++ fOptMinute s.part.zone.wallMinute)
            ∧ t.part.tally = s.part.tally ∧ t.part.engine = s.part.engine ∧ t.part.mem = s.part.mem))

/-- BAKE_WALK_STEP (R85 to R89): a visited tally of an eligible class is reset below the bake limit and exhausted at it, with an
EXPIRED notice and its holder copies (R165) where it had not expired, one of an ineligible class is only counted; before the
first visit of a list it is brought current, as `ServeMarkFlagsWhatTheMeterHasReached` states; after the last tally of a list an
eligible list is re-formed, the exhausted tallies before the reset ones, and the walk passes to the next list; a walk with no list
left to visit clears the busy flags and reports. BAKE_WALK_COMPLETION (R89, R90): the zone becomes IDLE, its record is written and
BAKE_DONE given with the three counts. That a walk with nothing to visit ends in a step of its own (log 61), and that reports are
taken in the order in which they were made (log 63), is the model's choice. -/
def Obligations.BakeWalkVisitsAndEndsTheBake : Prop :=
  (∀ (s : State) (z : Nat) (b : BakeWalk), s.part.quiet = true → z < 32 → s.part.bakeWalkReady z = some b →
       let first := fun (cls : Nat) => b.cls ≤ cls ∧ cls < 8 ∧ (s.part.listAt (b.zone * 8 + cls)).order ≠ []
         ∧ ∀ k, b.cls ≤ k → k < cls → (s.part.listAt (b.zone * 8 + k)).order = []
       let visits := fun (p : Part) (b' : BakeWalk) (todo : List Nat) =>
         (b.visit = some todo ∧ first b.cls ∧ b' = b ∧ p = s.part)
         ∨ ∃ cls, b.visit = none ∧ first cls ∧ b' = { b with cls := cls } ∧ p = s.part.bringCurrent (b.zone * 8 + cls)
             ∧ todo = (s.part.listAt (b.zone * 8 + cls)).order
       (∀ p w n rest r, visits p w (n :: rest) → rest ≠ [] → p.residentAt n = some r →
           let entry := p.classAt w.cls
           let walks := fun (b' : BakeWalk) => p.tally.bakeWalks.map fun v => if v.zone = w.zone then b' else v
           let m := p.meterAt r.zone r.cls
           let due := m + (p.classAt r.cls).budget * 16
           (w.minutes < entry.minBake → ∃ t, exec (.bakeWalkStep z) s = .next t ∧ t.pending = s.pending
             ∧ t.part = { p with
                 tally.bakeWalks := walks { w with ineligible := w.ineligible + r.members.getD 1, visit := some rest } })
           ∧ (entry.minBake ≤ w.minutes → r.acct.bakeCount < entry.bakeLimit →
             let r' : Resident := { r with
               acct := { r.acct with banked := 0, warned := false, expiredAt := none, bakeCount := r.acct.bakeCount + 1 }
               entryMark := m
               marks := r.marks.map fun k => { k with
                 due := due, warn := due - (p.classAt r.cls).warnMargin * 16, seq := p.tally.armSeq } }
             ∃ t, exec (.bakeWalkStep z) s = .next t ∧ t.pending = s.pending ∧ t.part.ungranted = ({ p with
               tally := { p.tally with
                 table := tset p.tally.table n (.resident r') .free
                 writes := p.tally.writes ++ [{ n := n, tally := .resident r', cmd := none }]
                 armSeq := min (p.tally.armSeq + 1) (2 ^ 48 - 1)
                 bakeWalks := walks { w with
                   reset := w.reset + r.members.getD 1, renewed := w.renewed ++ [n], visit := some rest } } } : Part).ungranted)
           ∧ (entry.minBake ≤ w.minutes → entry.bakeLimit ≤ r.acct.bakeCount →
             let r' : Resident := { r with acct := { r.acct with
               exhausted := true, warned := true, expiredAt := some (r.acct.expiredAt.getD p.expiryMinute) } }
             ∃ t, exec (.bakeWalkStep z) s = .next t ∧ t.pending = s.pending
               ∧ t.part.tally = { p.tally with
                 table := tset p.tally.table n (.resident r') .free
                 writes := p.tally.writes ++ [{ n := n, tally := .resident r', cmd := none }]
                 bakeWalks := walks { w with
                   exhausted := w.exhausted + r.members.getD 1, spent := w.spent ++ [n], visit := some rest } }
               ∧ (r.acct.expired = true → t.part.port = p.port)
               ∧ (r.acct.expired = false → t.part.port = p.port.withTallyNotice .expired
                   ([⟨1, 2⟩] ++ fOwner r.owner r.members ++ [⟨1, r.zone⟩, ⟨1, r.cls⟩, ⟨4, p.minuteNow⟩,
                     ⟨4, p.expiryMinute⟩]) (p.holders n))
               ∧ t.part.zone = s.part.zone ∧ t.part.engine = s.part.engine ∧ t.part.mem = s.part.mem))
       ∧ (∀ p w n r, visits p w [n] → p.residentAt n = some r →
           let entry := p.classAt w.cls
           let l := w.zone * 8 + w.cls
           let eligible := entry.minBake ≤ w.minutes
           let spends := eligible ∧ entry.bakeLimit ≤ r.acct.bakeCount
           let renews := eligible ∧ r.acct.bakeCount < entry.bakeLimit
           let spent := if spends then w.spent ++ [n] else w.spent
           let renewed := if renews then w.renewed ++ [n] else w.renewed
           let carriers := r.members.getD 1
           let due := p.meterOf l + entry.budget * 16
           let counted : BakeWalk := { w with
             visit := none, spent := [], renewed := []
             reset := w.reset + if renews then carriers else 0
             exhausted := w.exhausted + if spends then carriers else 0
             ineligible := w.ineligible + if eligible then 0 else carriers }
           ∃ t, exec (.bakeWalkStep z) s = .next t ∧ t.pending = s.pending
             ∧ (t.part.listAt l).order = (if eligible then spent ++ renewed else (p.listAt l).order)
             ∧ (eligible → ∀ k ∈ spent ++ renewed, ∀ y mk, t.part.residentAt k = some y → y.marks = some mk →
                 mk.prevLink = prevIn k (spent ++ renewed) ∧ mk.nextLink = nextIn k (spent ++ renewed))
             ∧ (eligible → (spent ++ renewed).Nodup →
                 (∀ k ∈ w.spent, ∃ y, p.residentAt k = some y ∧ y.acct.expiredAt ≠ none ∧ y.acct.warned = true) →
                 (∀ k ∈ w.renewed, ∃ y mk, p.residentAt k = some y ∧ y.marks = some mk ∧ y.acct.expiredAt = none
                   ∧ y.acct.warned = false ∧ p.meterOf l < mk.due ∧ p.meterOf l < mk.warn) →
                 (renews → r.cls = w.cls ∧ r.zone = w.zone ∧ r.marks ≠ none ∧ entry.warnMargin < entry.budget) →
                 (t.part.listAt l).expiryCursor = renewed.head? ∧ (t.part.listAt l).warnCursor = renewed.head?
                 ∧ (renews → t.part.residentAt n = some { r with
                     acct := { r.acct with banked := 0, warned := false, expiredAt := none, bakeCount := r.acct.bakeCount + 1 }
                     entryMark := p.meterOf l
                     marks := some {
                       due := due, warn := due - entry.warnMargin * 16, seq := p.tally.armSeq
                       prevLink := prevIn n (spent ++ renewed), nextLink := nextIn n (spent ++ renewed) } })
                 ∧ (spends → t.part.residentAt n = some { r with
                     acct := { r.acct with
                       exhausted := true, warned := true, expiredAt := some (r.acct.expiredAt.getD p.expiryMinute) }
                     marks := r.marks.map fun k => { k with
                       prevLink := prevIn n (spent ++ renewed), nextLink := nextIn n (spent ++ renewed) } })
                 ∧ (renews ∨ r.acct.expired = true → t.part.port = p.port)
                 ∧ (spends → r.acct.expired = false → t.part.port = p.port.withTallyNotice .expired
                     ([⟨1, 2⟩] ++ fOwner r.owner r.members ++ [⟨1, r.zone⟩, ⟨1, r.cls⟩, ⟨4, p.minuteNow⟩,
                       ⟨4, p.expiryMinute⟩]) (p.holders n)))
             ∧ (¬ eligible → t.part.tally.table = p.tally.table ∧ t.part.port = p.port)
             ∧ (∀ cls, cls < 8 → w.cls < cls → (p.listAt (w.zone * 8 + cls)).order ≠ [] →
                 (∀ k, w.cls < k → k < cls → (p.listAt (w.zone * 8 + k)).order = []) →
                 t.part.tally.bakeWalks = p.tally.bakeWalks.map (fun v =>
                   if v.zone = w.zone then { counted with cls := cls } else v)
                 ∧ t.part.zone = s.part.zone)
             ∧ ((∀ k, w.cls < k → k < 8 → (p.listAt (w.zone * 8 + k)).order = []) →
                 t.part.tally.bakeWalks = p.tally.bakeWalks.filter (fun v => v.zone != w.zone)
                 ∧ t.part.zone = { s.part.zone with reports := s.part.zone.reports
                     ++ [{ zone := w.zone, reset := counted.reset, exhausted := counted.exhausted
                           ineligible := counted.ineligible }] }
                 ∧ ∀ k, k < 8 → (t.part.listAt (w.zone * 8 + k)).busy = false)
             ∧ t.part.engine = s.part.engine ∧ t.part.mem = s.part.mem)
       ∧ (s.part.nextBakeClass b.zone b.cls = none → ∃ t, exec (.bakeWalkStep z) s = .next t ∧ t.pending = s.pending
           ∧ t.part.zone = { s.part.zone with reports := s.part.zone.reports
               ++ [{ zone := b.zone, reset := b.reset, exhausted := b.exhausted, ineligible := b.ineligible }] }
           ∧ t.part.tally.bakeWalks = s.part.tally.bakeWalks.filter (fun w => w.zone != b.zone)
           ∧ (∀ cls, cls < 8 → (t.part.listAt (b.zone * 8 + cls)).busy = false)
           ∧ t.part.tally.table = s.part.tally.table ∧ t.part.path = s.part.path ∧ t.part.engine = s.part.engine
           ∧ t.part.port = s.part.port ∧ t.part.mem = s.part.mem))
  ∧ ∀ (s : State) (r : WalkReport) (rest : List WalkReport) (n m : Nat), s.part.quiet = true → s.part.zone.reports = r :: rest →
         (s.part.zoneAt r.zone).bake = .completing n m →
         ∃ t, exec .bakeWalkCompletion s = .next t ∧ t.pending = s.pending ∧ t.part.ungranted = ({ s.part with
           zone := { s.part.zone with
             reports := rest
             zones := modifyAt s.part.zone.zones r.zone fun zn => { zn with bake := .idle }
             writes := s.part.zone.writes ++ [.zone r.zone none] }
           port := s.part.port.withNotice .bakeDone [⟨1, r.zone⟩, ⟨1, n⟩, ⟨2, m⟩, ⟨4, s.part.minuteNow⟩, ⟨4, r.reset⟩,
             ⟨4, r.exhausted⟩, ⟨4, r.ineligible⟩] } : Part).ungranted

/-- CLIMATE (R18, R6): a reading in range is classified by the working band table and recorded; one out of range is answered
BAD_FIELD with nothing changed. That the zone unit answers in the act of performance is the model's choice (log 14). -/
def Obligations.ClimateRecordsTheReading : Prop :=
  ∀ (s : State) (c : Nat) (x : Context) (z : Nat) (temperature : Int) (humidity : Nat),
    s.part.Performs c x → x.request = .climate z temperature humidity →
    (32 ≤ z ∨ temperature < -400 ∨ 1250 < temperature ∨ 1000 < humidity → Answers (.climate c) s c x s.part .badField [])
    ∧ (z < 32 → -400 ≤ temperature → temperature ≤ 1250 → humidity ≤ 1000 →
        ∀ band, (∀ b, b < band → ((s.part.zone.bands.getD b {}).admits temperature humidity = false)) →
          ((band < 7 ∧ (s.part.zone.bands.getD band {}).admits temperature humidity = true) ∨ band = 7) →
          s.part.zone.bands.length = 7 →
          Answers (.climate c) s c x ({ s.part with zone.zones := modifyAt s.part.zone.zones z fun zn =>
            { zn with presentBand := band, lastReading := some s.part.minuteNow, stale := false } } : Part) .ok
            [⟨1, z⟩, ⟨1, band⟩])

/-- TRIP, CLEAR_TRIP and BAKE_STOP (R15, R16, R82 to R84): the latch is set or cleared and a changed latch written; a TRIP of a
clear zone gives ZONE_TRIP with cause REQUEST and aborts a running bake of an oven, with BAKE_ABORTED after it; BAKE_STOP aborts a
running bake or is refused. The answer of TRIP and CLEAR_TRIP tells the tripped condition. That the zone unit answers in the act
of performance (log 14), and that a trip that aborts a bake makes one zone write (log 47), is the model's choice. -/
def Obligations.TripClearTripAndBakeStop : Prop :=
  ∀ (s : State) (c : Nat) (x : Context) (z : Nat), s.part.Performs c x → s.part.sized = true →
    let zn := s.part.zoneAt z
    let minute := fOptMinute s.part.zone.wallMinute
    let latched : Bool → Part := fun on => { s.part with
      zone.zones := modifyAt s.part.zone.zones z fun zn => { zn with tripLatch := on }
      zone.writes := s.part.zone.writes ++ if zn.tripLatch = on then [] else [.zone z none] }
    let aborted : Bool → Nat → Nat → Nat → BakeTimer → PortUnit → Part := fun latch cause n m b u => { s.part with
      zone.zones := modifyAt s.part.zone.zones z fun zn => { zn with tripLatch := latch, bake := .idle }
      zone.timers := modifyAt s.part.zone.timers n fun _ => none
      zone.writes := s.part.zone.writes ++ [.zone z none]
      port := u.withNotice .bakeAborted ([⟨1, z⟩, ⟨1, cause⟩, ⟨1, n⟩, ⟨2, m⟩, ⟨2, m - b.remaining⟩] ++ minute) }
    let running := fun (n m : Nat) (b : BakeTimer) => zn.kind = .oven ∧ zn.bake = .running n m
      ∧ s.part.zone.timers[n]? = some (some b) ∧ ∀ a, s.part.zone.advance = some a → a.issued = true
    (x.request = .trip z →
      (32 ≤ z → Answers (.trip c) s c x s.part .badField [])
      ∧ (z < 32 → zn.tripped = true → Answers (.trip c) s c x (latched true) .ok [⟨1, z⟩, ⟨1, 1⟩])
      ∧ (z < 32 → zn.tripped = false → zn.runningOven = false →
          Answers (.trip c) s c x { latched true with
            port := s.part.port.withNotice .zoneTrip ([⟨1, z⟩, ⟨1, 2⟩] ++ minute ++ [⟨1, 0⟩]) } .ok [⟨1, z⟩, ⟨1, 1⟩])
      ∧ (∀ n m b, z < 32 → zn.tripped = false → running n m b →
          Answers (.trip c) s c x
            (aborted true 1 n m b (s.part.port.withNotice .zoneTrip ([⟨1, z⟩, ⟨1, 2⟩] ++ minute ++ [⟨1, 1⟩]))) .ok
            [⟨1, z⟩, ⟨1, 1⟩]))
    ∧ (x.request = .clearTrip z →
      (32 ≤ z → Answers (.clearTrip c) s c x s.part .badField [])
      ∧ (z < 32 → Answers (.clearTrip c) s c x (latched false) .ok
          [⟨1, z⟩, ⟨1, if zn.lineMode = .level ∧ zn.lineLevel = true then 1 else 0⟩]))
    ∧ (x.request = .bakeStop z →
      (32 ≤ z → Answers (.bakeStop c) s c x s.part .badField [])
      ∧ (z < 32 → zn.kind ≠ .oven → Answers (.bakeStop c) s c x s.part .wrongZoneKind [])
      ∧ (z < 32 → zn.kind = .oven → zn.bake = .idle → Answers (.bakeStop c) s c x s.part .wrongState [])
      ∧ (∀ n m, z < 32 → zn.kind = .oven → zn.bake = .completing n m →
          Answers (.bakeStop c) s c x s.part .bakeFinishing [])
      ∧ (∀ n m b, z < 32 → running n m b →
          Answers (.bakeStop c) s c x (aborted zn.tripLatch 0 n m b s.part.port) .ok
            [⟨1, z⟩, ⟨2, m⟩, ⟨2, m - b.remaining⟩]))

/-- BAKE_START (R78): the checks in their order, and a bake begun on the lowest-numbered free timer. That the zone unit answers in
the act of performance is the model's choice (log 14). -/
def Obligations.BakeStartTakesTheLowestFreeTimer : Prop :=
  ∀ (s : State) (c : Nat) (x : Context) (z minutes : Nat), s.part.Performs c x → x.request = .bakeStart z minutes →
    s.part.sized = true →
    let zn := s.part.zoneAt z
    let inRange := z < 32 ∧ 1 ≤ minutes ∧ minutes ≤ 2880
    (¬ inRange → Answers (.bakeStart c) s c x s.part .badField [])
    ∧ (inRange → zn.kind ≠ .oven → Answers (.bakeStart c) s c x s.part .wrongZoneKind [])
    ∧ (inRange → zn.kind = .oven → zn.bake ≠ .idle → Answers (.bakeStart c) s c x s.part .ovenBusy [])
    ∧ (inRange → zn.kind = .oven → zn.bake = .idle → zn.tripped = true → Answers (.bakeStart c) s c x s.part .zoneTripped [])
    ∧ (inRange → zn.kind = .oven → zn.bake = .idle → zn.tripped = false → (∀ n, n < 4 → s.part.zone.timers.getD n none ≠ none) →
        Answers (.bakeStart c) s c x s.part .noBakeTimer [])
    ∧ (inRange → zn.kind = .oven → zn.bake = .idle → zn.tripped = false →
        ∀ n, n < 4 → s.part.zone.timers.getD n none = none → (∀ k, k < n → s.part.zone.timers.getD k none ≠ none) →
        Answers (.bakeStart c) s c x ({ s.part with
          zone.timers := modifyAt s.part.zone.timers n fun _ => some { zone := z, remaining := minutes }
          zone.zones := modifyAt s.part.zone.zones z fun zn => { zn with bake := .running n minutes }
          zone.writes := s.part.zone.writes ++ [.zone z none] } : Part) .ok
          [⟨1, z⟩, ⟨1, n⟩, ⟨2, minutes⟩, ⟨4, s.part.minuteNow⟩])

/-- ZONE_SET (R191, R192, R14, R17): the checks in their order; kind and line mode taken at once, the rest pending, a change to
OFF clears the latch, a change to LEVEL under an asserted line trips the zone, and the configuration write carries every
setting. That the zone unit answers in the act of performance (log 14), and that a latch and a bake changed by one request make
one zone write (log 47), is the model's choice. -/
def Obligations.ZoneSetChecksAndTakesItsSettings : Prop :=
  (∀ (p : Part) (z : Nat) (kind capacity fallback stale mode : Option Nat),
       let zn := p.zoneAt z
       let newKind := (kind.bind ZoneKind.ofCode).getD zn.kind
       let fields := z < 32 ∧ (∀ v, kind = some v → v ≤ 2) ∧ (∀ v, capacity = some v → v ≤ 65535)
         ∧ (∀ v, fallback = some v → v ≤ 7) ∧ (∀ v, stale = some v → v ≤ 255) ∧ (∀ v, mode = some v → v ≤ 2)
       let occupancy := p.tally.occupancy.getD z 0
       let resident := ∃ n r, (n, Tally.resident r) ∈ p.tally.table ∧ r.zone = z
       let tooLow := ∃ v, capacity = some v ∧ v ≠ 0 ∧ v < occupancy
       let refusal := p.zoneSetRefusal z kind capacity fallback stale mode
       (¬ fields → refusal = some .badField)
       ∧ (fields → newKind ≠ zn.kind → zn.bake ≠ .idle → refusal = some .ovenBusy)
       ∧ (fields → newKind ≠ zn.kind → zn.bake = .idle → occupancy ≠ 0 ∨ resident → refusal = some .zoneOccupied)
       ∧ (fields → newKind = .oven → zn.kind ≠ .oven → zn.bake = .idle → occupancy = 0 → ¬ resident → 8 ≤ p.ovens →
           refusal = some .wrongZoneKind)
       ∧ (fields → newKind = zn.kind → tooLow → refusal = some .zoneFull)
       ∧ (fields → newKind = zn.kind → ¬ tooLow → refusal = none)
       ∧ (fields → newKind ≠ zn.kind → zn.bake = .idle → occupancy = 0 → ¬ resident → (newKind ≠ .oven ∨ p.ovens < 8) →
           refusal = none))
  ∧ ∀ (s : State) (c : Nat) (x : Context) (z : Nat) (kind capacity fallback stale mode : Option Nat),
         s.part.Performs c x → x.request = .zoneSet z kind capacity fallback stale mode → s.part.sized = true →
         s.part.roomToWrite 1 = true →
         (∀ st, s.part.zoneSetRefusal z kind capacity fallback stale mode = some st → Answers (.zoneSet c) s c x s.part st [])
         ∧ (s.part.zoneSetRefusal z kind capacity fallback stale mode = none →
             let zn := s.part.zoneAt z
             let newMode := (mode.bind LineMode.ofCode).getD zn.lineMode
             let zn' := { zn with
               kind := (kind.bind ZoneKind.ofCode).getD zn.kind
               pendCapacity := capacity.getD zn.pendCapacity
               pendFallback := fallback.getD zn.pendFallback
               pendStaleLimit := stale.getD zn.pendStaleLimit
               lineMode := newMode
               tripLatch := if newMode ≠ zn.lineMode ∧ newMode = .off then false else zn.tripLatch }
             let setting : SettingWrite := .zone z
               { kind := zn'.kind, capacity := zn'.pendCapacity, fallback := zn'.pendFallback, staleLimit := zn'.pendStaleLimit
                 lineMode := newMode }
             let set : Part := { s.part with
               zone.zones := modifyAt s.part.zone.zones z fun _ => zn'
               zone.writes := s.part.zone.writes ++ if zn'.tripLatch = zn.tripLatch then [] else [.zone z none]
               path.queue := s.part.path.queue ++ [{ ctx := some c, body := .setting setting }] }
             let body := [⟨1, z⟩, ⟨1, zn'.kind.code⟩, ⟨1, newMode.code⟩, ⟨2, zn.capacity⟩, ⟨1, zn.fallback⟩, ⟨1, zn.staleLimit⟩]
               ++ fOpt 2 (if zn'.pendCapacity = zn.capacity then none else some zn'.pendCapacity)
               ++ fOpt 1 (if zn'.pendFallback = zn.fallback then none else some zn'.pendFallback)
               ++ fOpt 1 (if zn'.pendStaleLimit = zn.staleLimit then none else some zn'.pendStaleLimit)
               ++ [⟨4, s.part.tally.occupancy.getD z 0⟩, ⟨1, if zn'.tripped then 1 else 0⟩]
             let minute := fOptMinute s.part.zone.wallMinute
             (zn.tripped = true ∨ zn'.tripped = false → Answers (.zoneSet c) s c x set .ok body)
             ∧ (zn.tripped = false → zn'.tripped = true → zn'.runningOven = false →
                 Answers (.zoneSet c) s c x { set with
                   port := s.part.port.withNotice .zoneTrip ([⟨1, z⟩, ⟨1, 3⟩] ++ minute ++ [⟨1, 0⟩]) } .ok body)
             ∧ (∀ n m b, zn.tripped = false → zn'.tripped = true → zn'.kind = .oven → zn.bake = .running n m →
                 s.part.zone.timers[n]? = some (some b) → (∀ a, s.part.zone.advance = some a → a.issued = true) →
                 Answers (.zoneSet c) s c x { set with
                   zone.zones := modifyAt s.part.zone.zones z fun _ => { zn' with bake := .idle }
                   zone.timers := modifyAt s.part.zone.timers n fun _ => none
                   zone.writes := s.part.zone.writes ++ [.zone z none]
                   port := (s.part.port.withNotice .zoneTrip ([⟨1, z⟩, ⟨1, 3⟩] ++ minute ++ [⟨1, 1⟩])).withNotice .bakeAborted
                     ([⟨1, z⟩, ⟨1, 1⟩, ⟨1, n⟩, ⟨2, m⟩, ⟨2, m - b.remaining⟩] ++ minute) } .ok body))


/-! ### Tallies and due lists (02) -/

/-- Remaining minutes (R29), with a VERIFY against a need of 1 minute of a carrier with less than one minute left. -/
def Obligations.RemainingIsWholeMinutesLeft : Prop :=
  ∀ (p : Part) (t : Tally) (cls : Nat) (a : Account),
    ((∃ o, t = .sealed o cls a) ∨ ∃ r, t = .resident r ∧ r.cls = cls ∧ r.acct = a) →
    let budget := (p.classAt cls).budget
    let grains := budget * 16
    (budget = 0 → p.remaining t = none ∧ fRemaining (p.remaining t) = ⟨4, 0xFFFFFFFF⟩)
    ∧ (budget ≠ 0 → a.expiredAt ≠ none ∨ grains ≤ p.exposure t → p.remaining t = some 0)
    ∧ (budget ≠ 0 → a.expiredAt = none → p.exposure t < grains → p.remaining t = some ((grains - p.exposure t) / 16))
    ∧ ∀ (x : Context) (r : Resident) (port station : Nat), t = .resident r → budget ≠ 0 → a.exhausted = false →
        a.expiredAt = none → (p.zoneAt r.zone).kind = .floor → x.holdRead = none → x.holderRead = none →
        p.exposure t < grains → grains < p.exposure t + 16 →
        p.remaining t = some 0 ∧ p.verifyReason x port station 1 t = some 10

/-- Reported state (R27): the first line that applies; of a bag member, that of the bag tally. -/
def Obligations.ReportedStateIsTheFirstThatApplies : Prop :=
  ∀ zones : List Zone,
    (∀ o c a, reportedState (.sealed o c a) zones = some .sealed)
    ∧ (∀ r : Resident,
        let z := zones.getD r.zone {}
        let state := reportedState (.resident r) zones
        (r.acct.exhausted = true → state = some .exhausted)
        ∧ (r.acct.exhausted = false → r.acct.expiredAt ≠ none → state = some .expired)
        ∧ (r.acct.exhausted = false → r.acct.expiredAt = none →
            (z.kind = .oven → z.bake ≠ .idle → state = some .baking)
            ∧ (z.kind = .dry → state = some .dry)
            ∧ (z.kind = .floor → state = some .open_)
            ∧ (z.kind = .oven → z.bake = .idle → state = some .open_)))
    ∧ (∀ (slot b : Nat) (r : CarrierRecord), r.link = some b → accountTally slot r = 65536 + b)
    ∧ (∀ (slot : Nat) (r : CarrierRecord), r.link = none → accountTally slot r = slot)

/-- SERVE_MARK (R45) brings the list current (R34, R35): tallies at the cursors whose marks the meter has reached are flagged,
written and noticed, all else of every tally stays, and with nothing reached nothing changes. Cursors that stood on the first
tally that lacks the flag stand on the first that lacks it afterwards (R33), also behind an exhausted tally that keeps a due mark
above the meter (R86), which R34 by itself does not say (log 78). Of a list in its proper form (R32, R33: a tally stands in it
once, and of those not expired the marks do not fall; the expired may stand anywhere among them), of any length: every tally
reached that was not expired is flagged and written, the expired first, each in list order, with one notice for each and the
holder copies of it (R165: one for each distinct port of the checkouts that name its carriers, but for the routed one), and both
cursors stand past everything the meter has reached. The tally unit's choice of work (R41, R44, R45): a
command waits while an older one names one of its tallies or, unless it is refused OVEN_BUSY, while a list it needs is held;
the oldest command not taken that does not wait is ready, and so is a mark whose list is not held; with both ready the sources
alternate, and of the marks the lowest above the last list served goes first, wrapping round. That a JOIN of members of several
classes needs the list of the first member's class (log 49), and that the held carriers of a bag's holder copy go in the order of
the member list (log 25), is the model's choice. -/
def Obligations.ServeMarkFlagsWhatTheMeterHasReached : Prop :=
  (∀ p : Part,
    let held := fun (l : Nat) => (p.listAt l).walk ≠ none ∨ (p.listAt l).busy = true ∨ ∃ o ∈ p.zone.orders, o.zone = l / 8
    let names := fun (op : TallyOp) => match op with
      | .create n .. | .arm n _ | .move n _ | .seal n | .free n | .read n => [n]
      | .join bag ms _ => bag :: ms
      | .split bag n _ => [bag, n]
      | .leave n bag => [n, bag]
      | .listDue .. => []
    let arrives := fun (op : TallyOp) (n z : Nat) => op = .arm n z ∨ op = .move n z ∨ (∃ bag ms, op = .join bag (n :: ms) z)
      ∨ ∃ bag, op = .split bag n (some z)
    let needs := fun (op : TallyOp) (l : Nat) => (∃ n ∈ names op, ∃ r, p.residentAt n = some r ∧ l = r.zone * 8 + r.cls)
      ∨ (∃ n z, arrives op n z ∧ l = z * 8 + (p.tallyAt n).cls?.getD 0)
      ∨ ∃ z cls skip want, op = .listDue z cls skip want ∧ l = z * 8 + cls
    let waits := fun (older : List TallyCmd) (cmd : TallyCmd) =>
      (p.opRefusal cmd.op ≠ some .ovenBusy ∧ ∃ l, needs cmd.op l ∧ held l)
      ∨ ∃ o ∈ older, ∃ n ∈ names cmd.op, n ∈ names o.op
    let ready := fun (cmd : TallyCmd) => ∃ older younger, p.tally.queue = older ++ cmd :: younger ∧ cmd.taken = false
      ∧ ¬ waits older cmd ∧ ∀ before d behind, older = before ++ d :: behind → d.taken = true ∨ waits before d
    let marked := fun (l : Nat) => l ∈ p.tally.marks ∧ ¬ held l
    let first := fun (l : Nat) => marked l ∧ ((p.tally.lastList < l ∧ ∀ k, marked k → p.tally.lastList < k → l ≤ k)
      ∨ ∀ k, marked k → k ≤ p.tally.lastList ∧ l ≤ k)
    let named := fun (n : Nat) => (p.engine.checkouts.find? fun e => e.2.slot == n).toList.map fun e => e.2
    (∀ n, n < 65536 → p.holders n = named n)
    ∧ (∀ b, p.holders (65536 + b) = match p.bagAt b with
        | .live ms _ _ => ms.flatMap fun m => named m.1
        | _ => [])
    ∧ (∀ cmd, p.nextCommand = some cmd ↔ ready cmd ∧ ((∃ l, marked l) → p.tally.lastSource = .marks))
    ∧ (p.tally.marks.Pairwise (· < ·) → ∀ l, p.nextMark = some l ↔
        first l ∧ ((∃ cmd, ready cmd) → p.tally.lastSource = .commands)))
  ∧ ∀ (s : State) (l : Nat), s.part.quiet = true → s.part.nextMark = some l →
    let p := s.part
    let d := p.listAt l
    let m := p.meterOf l
    let served : Part := { p with tally.marks := p.tally.marks.erase l, tally.lastList := l, tally.lastSource := .marks }
    let body := fun (kind : Nat) (r : Resident) (last : Field) =>
      [⟨1, kind⟩] ++ fOwner r.owner r.members ++ [⟨1, r.zone⟩, ⟨1, r.cls⟩, ⟨4, p.minuteNow⟩, last]
    let expires := fun (r : Resident) => { r with acct := { r.acct with warned := true, expiredAt := some p.expiryMinute } }
    let warns := fun (r : Resident) => { r with acct := { r.acct with warned := true } }
    let isDue := fun (n : Nat) => match p.residentAt n with
      | some r => r.acct.expiredAt.isNone && (r.marks.any fun k => decide (k.due ≤ m))
      | none => false
    let isNear := fun (n : Nat) => match p.residentAt n with
      | some r => r.acct.expiredAt.isNone && !r.acct.warned && (r.marks.any fun k => decide (m < k.due ∧ k.warn ≤ m))
      | none => false
    let write := fun (f : Resident → Resident) (n : Nat) => (p.residentAt n).toList.map fun r =>
      ({ n := n, tally := .resident (f r), cmd := none } : TallyWrite)
    let notice := fun (kind : NoticeKind) (b : Resident → Body) (u : PortUnit) (n : Nat) => match p.residentAt n with
      | some r => u.withTallyNotice kind (b r) (p.holders n)
      | none => u
    ∃ t, exec .serveMark s = .next t ∧ t.pending = s.pending
      ∧ t.part.tally.marks = served.tally.marks ∧ t.part.tally.lastList = l ∧ t.part.tally.lastSource = .marks
      ∧ t.part.tally.queue = p.tally.queue ∧ t.part.tally.occupancy = p.tally.occupancy
      ∧ t.part.tally.useCounts = p.tally.useCounts ∧ t.part.tally.armSeq = p.tally.armSeq
      ∧ t.part.engine = p.engine ∧ t.part.zone = p.zone ∧ t.part.mem = p.mem
      ∧ (∀ n r, p.residentAt n = some r → ∃ w e,
          t.part.residentAt n = some { r with acct := { r.acct with warned := w, expiredAt := e } }
            ∧ (r.acct.warned = true → w = true) ∧ (e = r.acct.expiredAt ∨ e = some p.expiryMinute))
      ∧ (∀ n, p.residentAt n = none → t.part.tallyAt n = p.tallyAt n)
      ∧ (∀ n r k, d.order ≠ [] → d.expiryCursor = some n → p.residentAt n = some r → r.marks = some k → k.due ≤ m →
          ∃ r', t.part.residentAt n = some r' ∧ r'.acct.warned = true ∧ r'.acct.expiredAt = some p.expiryMinute)
      ∧ ((∀ n r k, d.expiryCursor = some n → p.residentAt n = some r → r.marks = some k → m < k.due) →
          (∀ n r k, d.warnCursor = some n → p.residentAt n = some r → r.marks = some k → m < k.warn) → t.part = served)
      ∧ (t.part.listAt l).order = d.order
      ∧ (d.expiryCursor = (d.order.find? fun n => (p.residentAt n).any fun r => r.acct.expiredAt.isNone) →
          d.warnCursor = (d.order.find? fun n => (p.residentAt n).any fun r => !r.acct.warned) →
          (t.part.listAt l).expiryCursor = (d.order.find? fun n => (t.part.residentAt n).any fun r => r.acct.expiredAt.isNone)
          ∧ (t.part.listAt l).warnCursor = d.order.find? fun n => (t.part.residentAt n).any fun r => !r.acct.warned)
      ∧ ((∀ n ∈ d.order, ∃ r k, p.residentAt n = some r ∧ r.marks = some k ∧ (r.acct.expiredAt ≠ none → r.acct.warned = true)) →
          d.order.Nodup →
          (d.order.Pairwise fun a b => ∀ r r' k k', p.residentAt a = some r → p.residentAt b = some r' → r.marks = some k →
            r'.marks = some k' → r.acct.expiredAt = none → r'.acct.expiredAt = none → k.due ≤ k'.due ∧ k.warn ≤ k'.warn) →
          d.expiryCursor = (d.order.find? fun n => (p.residentAt n).any fun r => r.acct.expiredAt.isNone) →
          d.warnCursor = (d.order.find? fun n => (p.residentAt n).any fun r => !r.acct.warned) →
          (∀ n ∈ d.order, ∀ r, p.residentAt n = some r → t.part.residentAt n =
              some (if isDue n then expires r else if isNear n then warns r else r))
          ∧ (∀ n, n ∉ d.order → t.part.tallyAt n = p.tallyAt n)
          ∧ t.part.tally.writes = p.tally.writes ++ (d.order.filter isDue).flatMap (write expires)
              ++ (d.order.filter isNear).flatMap (write warns)
          ∧ t.part.listAt l = { d with
              expiryCursor := d.order.find? fun n => (p.residentAt n).any fun r => r.acct.expiredAt.isNone && !isDue n
              warnCursor := d.order.find? fun n => (p.residentAt n).any fun r => !r.acct.warned && !isDue n && !isNear n }
          ∧ t.part.port =
              (d.order.filter isNear).foldl (notice .warn fun r => body 1 r (fRemaining (p.remaining (.resident r))))
                ((d.order.filter isDue).foldl (notice .expired fun r => body 2 r (fMinute p.expiryMinute)) p.port))
      ∧ (∀ n r k, d.order = [n] → d.warnCursor = some n → p.residentAt n = some r → r.marks = some k →
          (d.expiryCursor = some n → k.due ≤ m →
            let r' : Resident := expires r
            t.part.ungranted = ({ served with
              tally.table := tset p.tally.table n (.resident r') .free
              tally.writes := p.tally.writes ++ [{ n := n, tally := .resident r', cmd := none }]
              tally.lists := tset p.tally.lists l { d with expiryCursor := none, warnCursor := none } {}
              port := p.port.withTallyNotice .expired (body 2 r (fMinute p.expiryMinute)) (p.holders n) } : Part).ungranted)
          ∧ (d.expiryCursor = some n → m < k.due → k.warn ≤ m →
            let r' : Resident := warns r
            t.part.ungranted = ({ served with
              tally.table := tset p.tally.table n (.resident r') .free
              tally.writes := p.tally.writes ++ [{ n := n, tally := .resident r', cmd := none }]
              tally.lists := tset p.tally.lists l { d with warnCursor := none } {}
              port := p.port.withTallyNotice .warn (body 1 r (fRemaining (p.remaining (.resident r)))) (p.holders n) } : Part
              ).ungranted))

/-- A tally command that fails a check (R43) completes at its taking and changes no tally, no list and no occupancy, and its
context is answered: with the refusal's status for CREATE, ARM, JOIN, MOVE, SEAL and SPLIT (R146, R150, R62, R151, R152, R65,
R67), for the MOVE of a MOVE_GROUP with the carriers already parted (R71), and OK with the command and its result code for the
FREE or LEAVE of a RETIRE or FORCE_RETIRE (R153, R132, R101), whose numbering is the model's choice (log 17); the bag number of
a multi-key OPEN whose JOIN is refused goes back to the head of the free bag list (R61, R62); and the checks of every command
in their order (R40, R41, R47 to R56), a bag tally counted by its members. That the answer of FORCE_RETIRE carries the fault
list length as it is at the completion is the model's choice (log 56). -/
def Obligations.RefusedTallyCommandChangesNoTally : Prop :=
  (∀ (s : State) (cmd : TallyCmd) (st : Status), s.part.quiet = true → s.part.nextCommand = some cmd →
      s.part.opRefusal cmd.op = some st →
      ∃ t, exec cmd.op.row s = .next t ∧ t.pending = s.pending
        ∧ (s.part.noneWaits = true → t.part.tally = { s.part.tally with
            lastSource := .commands, queue := s.part.tally.queue.filter fun d => d.id != cmd.id })
        ∧ t.part.tally.table = s.part.tally.table ∧ t.part.tally.lists = s.part.tally.lists
        ∧ t.part.tally.occupancy = s.part.tally.occupancy ∧ t.part.tally.writes = s.part.tally.writes
        ∧ t.part.zone = s.part.zone ∧ t.part.mem = s.part.mem
        ∧ (∀ x, s.part.Awaits cmd.ctx x →
            let answers := fun (st : Status) (body : Body) =>
              Answers cmd.op.row s cmd.ctx x (({ s.part with tally.lastSource := .commands } : Part).without cmd) st body
            let parts := ∃ bag n dest, cmd.op = .split bag n dest
            let code := match st with
              | .badField => 1
              | .wrongState => 2
              | .classMismatch => 3
              | .zoneFull => 4
              | .ovenBusy => 5
              | _ => 0
            let faults := s.part.engine.faults.length
            (∀ zone k, x.request = .openKeys zone [k] → (∃ n z, cmd.op = .arm n z) → answers st [])
            ∧ (∀ k cls e b, x.request = .enroll k cls e b → (∃ n k' cls' e' b', cmd.op = .create n k' cls' e' b') →
                answers st [])
            ∧ (∀ k z station, x.request = .move k z station → parts ∨ (∃ n z', cmd.op = .move n z') → answers st [])
            ∧ (∀ k, x.request = .seal k → parts ∨ (∃ n, cmd.op = .seal n) → answers st [])
            ∧ (∀ b z n z', x.request = .moveGroup b z → cmd.op = .move n z' → answers st (⟨1, x.left.length⟩ :: x.left.map fKey))
            ∧ (∀ k reason station, x.request = .retire k reason station →
                (∀ n, n < 65536 → cmd.op = .free n → answers .ok (x.head ++ [⟨1, 0⟩, ⟨1, code⟩]))
                ∧ (∀ n bag, cmd.op = .leave n bag → answers .ok (x.head ++ [⟨1, 1⟩, ⟨1, code⟩])))
            ∧ (∀ position slot, x.request = .forceRetire position slot →
                (∀ n, n < 65536 → cmd.op = .free n → answers .ok (x.head ++ [⟨1, 0⟩, ⟨1, code⟩, ⟨2, faults⟩]))
                ∧ (∀ n bag, cmd.op = .leave n bag → answers .ok (x.head ++ [⟨1, 1⟩, ⟨1, code⟩, ⟨2, faults⟩]))))
        ∧ (∀ x zone keys bag ms z, s.part.Awaits cmd.ctx x → x.request = .openKeys zone keys → cmd.op = .join bag ms z →
            ∃ f, f.numbers = (bag - 65536) :: s.part.engine.bagFree.numbers
              ∧ Answers cmd.op.row s cmd.ctx x
                (({ s.part with tally.lastSource := .commands, engine.bagFree := f } : Part).without cmd) st []))
  ∧ ∀ (p : Part) (n z : Nat),
      let exceeds := fun (carriers : Nat) =>
        (p.zoneAt z).capacity ≠ 0 ∧ (p.zoneAt z).capacity < p.tally.occupancy.getD z 0 + carriers
      let baking := (p.zoneAt z).kind = .oven ∧ (p.zoneAt z).bake ≠ .idle
      let checked := fun (op : TallyOp) (carriers : Nat) => (baking → p.opRefusal op = some .ovenBusy)
        ∧ (¬ baking → exceeds carriers → p.opRefusal op = some .zoneFull)
        ∧ (¬ baking → ¬ exceeds carriers → p.opRefusal op = none)
      let isSealed := fun (n : Nat) => ∃ o c a, p.tallyAt n = .sealed o c a
      let follows := ∃ o c, p.tallyAt n = .following o c
      let held := fun (bag : Nat) (r : Resident) => p.tallyAt bag = .resident r ∧ 1 ≤ r.members.getD 0
      (∀ k cls e b, p.opRefusal (.create n k cls e b) =
        if 8 ≤ cls ∨ 1048576 ≤ e ∨ 16 ≤ b then some .badField
        else if n < 65536 ∧ p.tallyAt n = .free then none else some .wrongState)
      ∧ (32 ≤ z → p.opRefusal (.arm n z) = some .badField ∧ p.opRefusal (.move n z) = some .badField)
      ∧ (z < 32 → ¬ isSealed n → p.opRefusal (.arm n z) = some .wrongState)
      ∧ (z < 32 → (∀ r, p.tallyAt n ≠ .resident r) → p.opRefusal (.move n z) = some .wrongState)
      ∧ (z < 32 → isSealed n → checked (.arm n z) 1)
      ∧ (∀ r, p.tallyAt n = .resident r → z < 32 →
          (r.zone = z → p.opRefusal (.move n z) = none) ∧ (r.zone ≠ z → checked (.move n z) (r.members.getD 1)))
      ∧ (p.opRefusal (.seal n) = if n < 65536 ∧ (p.residentAt n).isSome = true then none else some .wrongState)
      ∧ (∀ ms,
          let fields := 2 ≤ ms.length ∧ ms.length ≤ 16 ∧ (n :: ms).Nodup ∧ z < 32
          let states := 65536 ≤ n ∧ p.tallyAt n = .free ∧ ∀ m ∈ ms, isSealed m
          let oneClass := ∀ m ∈ ms, ∀ k ∈ ms, (p.tallyAt m).cls? = (p.tallyAt k).cls?
          (¬ fields → p.opRefusal (.join n ms z) = some .badField)
          ∧ (fields → ¬ states → p.opRefusal (.join n ms z) = some .wrongState)
          ∧ (fields → states → ¬ oneClass → p.opRefusal (.join n ms z) = some .classMismatch)
          ∧ (fields → states → oneClass → checked (.join n ms z) ms.length))
      ∧ (∀ bag, ((∀ r, ¬ held bag r) ∨ ¬ follows →
            (∀ dest, p.opRefusal (.split bag n dest) = some .wrongState) ∧ p.opRefusal (.leave n bag) = some .wrongState)
          ∧ (∀ r, held bag r → follows →
            p.opRefusal (.leave n bag) = none ∧ p.opRefusal (.split bag n none) = none
            ∧ (32 ≤ z → p.opRefusal (.split bag n (some z)) = some .badField)
            ∧ (z < 32 → z = r.zone → p.opRefusal (.split bag n (some z)) = none)
            ∧ (z < 32 → z ≠ r.zone → checked (.split bag n (some z)) 1)))
      ∧ (p.opRefusal (.free n) = match p.tallyAt n with
          | .sealed .. => none
          | .resident r => if r.members.getD 0 = 0 then none else some .wrongState
          | _ => some .wrongState)
      ∧ p.opRefusal (.read n) = none ∧ (∀ cls skip want, p.opRefusal (.listDue z cls skip want) = none)

/-- CREATE (R47), and FREE (R54) of a SEALED and of a RESIDENT tally: the account, the use count of the class, the occupancy,
the tally write. -/
def Obligations.CreateAndFreeOpenAndCloseAnAccount : Prop :=
  ∀ (s : State) (cmd : TallyCmd), s.part.Takes cmd →
    let done := s.part.tally.queue.map fun d => if d.id = cmd.id then { d with taken := true, finished := true } else d
    (∀ n k cls exposure bakes, cmd.op = .create n k cls exposure bakes →
      let tally : Tally := .sealed (.carrier k) cls { banked := exposure * 16, bakeCount := bakes }
      ∃ t, exec .create s = .next t ∧ t.pending = s.pending ∧ t.part.ungranted = ({ s.part with
        tally := { s.part.tally with
          lastSource := .commands
          queue := done
          table := tset s.part.tally.table n tally .free
          writes := s.part.tally.writes ++ [{ n := n, tally := tally, cmd := some cmd.id }]
          useCounts := modifyAt s.part.tally.useCounts cls fun u => u + 1 } } : Part).ungranted)
    ∧ (∀ n o cls a, cmd.op = .free n → s.part.tallyAt n = .sealed o cls a →
      ∃ t, exec .free s = .next t ∧ t.pending = s.pending ∧ t.part.ungranted = ({ s.part with
        tally := { s.part.tally with
          lastSource := .commands
          queue := done
          table := tset s.part.tally.table n .free .free
          writes := s.part.tally.writes ++ [{ n := n, tally := .free, cmd := some cmd.id }]
          useCounts := modifyAt s.part.tally.useCounts cls fun u => u - 1 } } : Part).ungranted)
    ∧ (∀ n r, cmd.op = .free n → s.part.tallyAt n = .resident r →
      ∃ t, exec .free s = .next t ∧ t.pending = s.pending
        ∧ t.part.tally.queue = done
        ∧ t.part.tallyAt n = .free ∧ { n := n, tally := .free, cmd := some cmd.id } ∈ t.part.tally.writes
        ∧ t.part.tally.useCounts = modifyAt s.part.tally.useCounts r.cls (fun u => u - 1)
        ∧ t.part.tally.occupancy = modifyAt s.part.tally.occupancy r.zone (fun o => o - r.members.getD 1)
        ∧ (r.marks ≠ none → (t.part.listAt (r.zone * 8 + r.cls)).order = (s.part.listAt (r.zone * 8 + r.cls)).order.erase n)
        ∧ t.part.engine = s.part.engine ∧ t.part.zone = s.part.zone ∧ t.part.mem = s.part.mem)

/-- Exposure and banking (R28), dry credit on leaving a zone (R42), due and warn mark (R30). -/
def Obligations.BankingCreditAndMarks : Prop :=
  ∀ (p : Part) (r : Resident),
    let z := p.zoneAt r.zone
    let c := p.classAt r.cls
    let banked := min (r.acct.banked + (p.meterAt r.zone r.cls - r.entryMark)) (2 ^ 40 - 1)
    let minutes := z.dry - r.entryDry.getD z.dry
    let credit := if c.creditRatio = 0 then 0 else min (min (minutes / c.creditRatio * 16) (c.creditCap * 16)) banked
    let due := r.entryMark + c.budget * 16 - r.acct.banked
    p.exposure (.resident r) = banked
    ∧ (∀ o cls a, p.exposure (.sealed o cls a) = a.banked)
    ∧ (z.kind ≠ .dry → p.leaving r = ({ r.acct with banked := banked }, none))
    ∧ (z.kind = .dry → r.acct.expiredAt ≠ none → p.leaving r = ({ r.acct with banked := banked }, some 0))
    ∧ (z.kind = .dry → r.acct.expiredAt = none → p.leaving r = ({ r.acct with banked := banked - credit }, some credit))
    ∧ (r.acct.expiredAt ≠ none ∨ c.budget * 16 ≤ r.acct.banked →
        p.marksOf r = (r.entryMark, r.entryMark - c.warnMargin * 16))
    ∧ (r.acct.expiredAt = none → r.acct.banked < c.budget * 16 → p.marksOf r = (due, due - c.warnMargin * 16))

/-- ARM, MOVE and SEAL (R48, R49, R50): the list left is brought current, the account banked (`BankingCreditAndMarks`), the
entry marks taken, the occupancies changed, and the insertion walk begun with the marks of R30. That a MOVE to the tally's own
zone brings nothing current and completes in its act is the model's choice (logs 19 and 20). -/
def Obligations.ArmMoveAndSealBankAndPlace : Prop :=
  ∀ (s : State) (cmd : TallyCmd), s.part.Takes cmd →
    let p := s.part
    let arrived := fun (r : Resident) (z : Nat) => ({ r with
      zone := z
      entryMark := p.meterAt z r.cls
      entryDry := if (p.zoneAt z).kind = .dry then some (p.zoneAt z).dry else none
      marks := none } : Resident)
    let placed := fun (t : State) (n : Nat) (r : Resident) =>
      let d := t.part.listAt (r.zone * 8 + r.cls)
      t.part.residentAt n = some r
      ∧ { n := n, tally := .resident r, cmd := some cmd.id } ∈ t.part.tally.writes
      ∧ ((p.classAt r.cls).budget = 0 → ∀ e ∈ t.part.tally.queue, e.id = cmd.id → e.finished = true)
      ∧ ((p.classAt r.cls).budget ≠ 0 → d.walk = some (.insertion cmd.id n (p.meterAt r.zone r.cls) (p.marksOf r).1
          (p.marksOf r).2 d.order.getLast?))
    let left := fun (t : State) (n : Nat) (r r' : Resident) =>
      (∃ w e, r' = { r with acct := { r.acct with warned := w, expiredAt := e } })
      ∧ ((p.took cmd).bringListed r.zone r.cls).residentAt n = some r'
      ∧ (∀ e ∈ t.part.tally.queue, e.id = cmd.id → e.credit = (p.leaving r').2)
      ∧ (r.marks ≠ none → (t.part.listAt (r.zone * 8 + r.cls)).order = (p.listAt (r.zone * 8 + r.cls)).order.erase n)
    let frame := fun (t : State) => t.pending = s.pending ∧ t.part.engine = p.engine ∧ t.part.zone = p.zone
      ∧ t.part.mem = p.mem ∧ t.part.tally.useCounts = p.tally.useCounts
    (∀ n z o cls a, cmd.op = .arm n z → p.tallyAt n = .sealed o cls a →
      ∃ t, exec .arm s = .next t ∧ frame t
        ∧ placed t n (arrived { owner := o, cls := cls, acct := a, zone := z, entryMark := 0 } z)
        ∧ t.part.tally.occupancy = modifyAt p.tally.occupancy z (fun o => o + 1))
    ∧ (∀ n z r, cmd.op = .move n z → p.tallyAt n = .resident r → r.zone ≠ z →
      ∃ t r', exec .tallyMove s = .next t ∧ frame t ∧ left t n r r'
        ∧ placed t n (arrived { r' with acct := (p.leaving r').1 } z)
        ∧ t.part.tally.occupancy = modifyAt (modifyAt p.tally.occupancy r.zone fun o => o - r.members.getD 1) z
            fun o => o + r.members.getD 1)
    ∧ (∀ n z r, cmd.op = .move n z → p.tallyAt n = .resident r → r.zone = z →
      ∃ t, exec .tallyMove s = .next t ∧ t.pending = s.pending
        ∧ (p.noneWaits = true → t.part.tally = (({ p with tally.lastSource := .commands } : Part).without cmd).tally)
        ∧ (∀ n', t.part.tallyAt n' = p.tallyAt n') ∧ t.part.tally.writes = p.tally.writes
        ∧ t.part.zone = p.zone ∧ t.part.mem = p.mem)
    ∧ (∀ n r, cmd.op = .seal n → p.tallyAt n = .resident r →
      ∃ t r', exec .tallySeal s = .next t ∧ frame t ∧ left t n r r'
        ∧ t.part.tallyAt n = .sealed r'.owner r'.cls (p.leaving r').1
        ∧ { n := n, tally := t.part.tallyAt n, cmd := some cmd.id } ∈ t.part.tally.writes
        ∧ t.part.tally.occupancy = modifyAt p.tally.occupancy r.zone (fun o => o - 1))

/-- JOIN, SPLIT and LEAVE (R51, R52, R53): the worst of the members' accounts, the member copied from the bag tally and placed
behind every tally of its list whose due mark is not greater, or banked and credited (`BankingCreditAndMarks`) and brought to
another zone, the counts, and the insertion walks that a JOIN and such a SPLIT begin with the marks of R30. -/
def Obligations.JoinSplitAndLeaveKeepTheBagAccount : Prop :=
  ∀ (s : State) (cmd : TallyCmd), s.part.Takes cmd →
    let p := s.part
    let written := fun (t : State) (n : Nat) (y : Tally) =>
      t.part.tallyAt n = y ∧ { n := n, tally := y, cmd := some cmd.id } ∈ t.part.tally.writes
    let frame := fun (t : State) => t.pending = s.pending ∧ t.part.engine = p.engine ∧ t.part.zone = p.zone
      ∧ t.part.mem = p.mem
    let arrived := fun (r : Resident) (z : Nat) => ({ r with
      zone := z
      entryMark := p.meterAt z r.cls
      entryDry := if (p.zoneAt z).kind = .dry then some (p.zoneAt z).dry else none
      marks := none } : Resident)
    let walks := fun (t : State) (n : Nat) (r : Resident) =>
      let d := t.part.listAt (r.zone * 8 + r.cls)
      ((p.classAt r.cls).budget = 0 → ∀ e ∈ t.part.tally.queue, e.id = cmd.id → e.finished = true)
      ∧ ((p.classAt r.cls).budget ≠ 0 → d.walk = some (.insertion cmd.id n (p.meterAt r.zone r.cls) (p.marksOf r).1
          (p.marksOf r).2 d.order.getLast?))
    (∀ bag ms z, cmd.op = .join bag ms z →
      ∃ t r, exec .join s = .next t ∧ frame t ∧ written t bag (.resident r) ∧ walks t bag r
        ∧ r.owner = .bag (bag - 65536) ∧ r.zone = z ∧ r.entryMark = p.meterAt z r.cls ∧ r.members = some ms.length
        ∧ r.entryDry = (if (p.zoneAt z).kind = .dry then some (p.zoneAt z).dry else none) ∧ r.marks = none
        ∧ (∀ n ∈ ms, ∃ o a, p.tallyAt n = .sealed o r.cls a ∧ written t n (.following o r.cls)
            ∧ a.banked ≤ r.acct.banked ∧ a.bakeCount ≤ r.acct.bakeCount
            ∧ (a.warned = true → r.acct.warned = true) ∧ (a.exhausted = true → r.acct.exhausted = true)
            ∧ (∀ m, a.expiredAt = some m → ∃ m', m' ≤ m ∧ r.acct.expiredAt = some m'))
        ∧ (∀ m, r.acct.expiredAt = some m → ∃ n ∈ ms, ∃ a, (p.tallyAt n).acct? = some a ∧ a.expiredAt = some m)
        ∧ (∃ n ∈ ms, ∃ a, (p.tallyAt n).acct? = some a ∧ a.banked = r.acct.banked)
        ∧ (∃ n ∈ ms, ∃ a, (p.tallyAt n).acct? = some a ∧ a.bakeCount = r.acct.bakeCount)
        ∧ (r.acct.warned = true → ∃ n ∈ ms, ∃ a, (p.tallyAt n).acct? = some a ∧ a.warned = true)
        ∧ (r.acct.exhausted = true → ∃ n ∈ ms, ∃ a, (p.tallyAt n).acct? = some a ∧ a.exhausted = true)
        ∧ t.part.tally.occupancy = modifyAt p.tally.occupancy z (fun o => o + ms.length)
        ∧ t.part.tally.useCounts = modifyAt p.tally.useCounts r.cls (fun u => u + 1))
    ∧ (∀ bag n dest r o cls, cmd.op = .split bag n dest → p.tallyAt bag = .resident r → p.tallyAt n = .following o cls →
      ∃ t r' m b, exec .split s = .next t ∧ frame t
        ∧ ((p.took cmd).bringListed r.zone r.cls).residentAt bag = some r'
        ∧ t.part.residentAt bag = some b ∧ b.members = r.members.map (fun k => k - 1) ∧ b.owner = r.owner ∧ b.cls = r.cls
        ∧ b.zone = r.zone ∧ b.entryMark = r.entryMark ∧ b.acct.banked = r.acct.banked
        ∧ b.acct.bakeCount = r.acct.bakeCount ∧ b.acct.exhausted = r.acct.exhausted
        ∧ t.part.residentAt n = some m ∧ m.owner = o ∧ m.cls = cls ∧ m.members = none
        ∧ (dest = none ∨ dest = some r.zone →
            b.acct = r'.acct
            ∧ (∃ k, m = { r' with owner := o, cls := cls, members := none, marks := k }
              ∧ (k.map fun k => (k.due, k.warn)) = r'.marks.map fun k => (k.due, k.warn))
            ∧ (∀ k, r'.marks = some k →
              let q := (p.took cmd).bringListed r.zone r.cls
              ∀ before behind, (q.listAt (r.zone * 8 + cls)).order = before ++ behind → (before ++ behind).Nodup →
                (∀ j, before.getLast? = some j → q.dueOf j ≤ k.due) → (∀ j ∈ behind, k.due < q.dueOf j) →
                (t.part.listAt (r.zone * 8 + cls)).order = before ++ n :: behind)
            ∧ (∀ e ∈ t.part.tally.queue, e.id = cmd.id → e.finished = true)
            ∧ t.part.tally.occupancy = p.tally.occupancy)
        ∧ (∀ z, dest = some z → z ≠ r.zone →
            let copy : Resident := { r' with owner := o, cls := cls, members := none }
            m = arrived { copy with acct := (p.leaving copy).1 } z ∧ walks t n m
            ∧ { n := n, tally := .resident m, cmd := some cmd.id } ∈ t.part.tally.writes
            ∧ (∀ e ∈ t.part.tally.queue, e.id = cmd.id → e.credit = (p.leaving copy).2)
            ∧ t.part.tally.occupancy = modifyAt (modifyAt p.tally.occupancy r.zone fun o => o - 1) z fun o => o + 1)
        ∧ t.part.tally.useCounts = p.tally.useCounts)
    ∧ (∀ n bag r cls, cmd.op = .leave n bag → p.tallyAt bag = .resident r → (p.tallyAt n).cls? = some cls →
      ∃ t r', exec .leave s = .next t ∧ frame t
        ∧ ((p.took cmd).bringListed r.zone r.cls).residentAt bag = some r'
        ∧ written t bag (.resident { r' with members := r.members.map fun k => k - 1 })
        ∧ written t n .free
        ∧ t.part.tally.occupancy = modifyAt p.tally.occupancy r.zone (fun o => o - 1)
        ∧ t.part.tally.useCounts = modifyAt p.tally.useCounts cls fun u => u - 1)

/-- READ (R55) at its taking: the list is brought current and the waiting LOOKUP, VERIFY or CHECKOUT is answered from the tally
as it then stands (R147, R148, R162); a VERIFY with the first reason that applies of EXHAUSTED, EXPIRED, ON_HOLD, NOT_ON_FLOOR,
HELD_ELSEWHERE and SHORT; a LIST_BAG from the bag record as read at performance and the READ (R73). A LOOKUP tells the form of
the leaf entry that resolved its key (R147). A CHECKOUT that succeeds takes the lowest-numbered free entry (R162), and the cache
entry of the slot is pinned (R120). How the optional fields of the answers are laid out (log 16), that a READ completes in the act
of its taking (log 20), the numbering of verdicts and of PRIMARY and ALIAS (log 17), the answer of a LIST_BAG whose bag tally has
been freed before the READ (log 51), the free value of an exposure that its 4 bytes do not hold (log 64), and that a LOOKUP takes
the member count from the bag tally (log 85) are the model's choice. -/
def Obligations.ReadAnswersFromTheTallyAsItStands : Prop :=
  ∀ (s : State) (cmd : TallyCmd) (x : Context) (n : Nat), s.part.Takes cmd → cmd.op = .read n →
    s.part.Awaits cmd.ctx x →
    let p := (match s.part.residentAt n with
      | some r => (s.part.took cmd).bringListed r.zone r.cls
      | none => s.part.took cmd).without cmd
    let t := p.tallyAt n
    let minutes := p.exposure t / 16
    let exposed : Field := ⟨4, if minutes ≤ 4294967295 then minutes else Config.unstatedExposure (p.exposure t)⟩
    let flags := [fFlag t.account.warned, fFlag t.account.expiredAt.isSome, fFlag t.account.exhausted]
    (∀ i, p.freeCheckout = some i ↔ i < 2048 ∧ tfind p.engine.checkouts i = none
        ∧ ∀ j, j < i → tfind p.engine.checkouts j ≠ none)
    ∧ (∀ b, x.request = .listBag b → Answers .read s cmd.ctx x p .ok
      (x.head ++ [⟨1, t.zone?.getD 0⟩, ⟨1, t.cls?.getD 0⟩, p.stateField t, exposed, fRemaining (p.remaining t)] ++ flags
        ++ fOptMinute t.account.expiredAt ++ [⟨1, t.account.bakeCount⟩] ++ fList (fun k => [fKey k]) x.left))
    ∧ (∀ k slot rec_ i m ready form, x.request = .lookup k → x.working.head? = some (slot, rec_) →
      x.resolutionOf k = .entry i m ready form →
      Answers .read s cmd.ctx x p .ok
        ([⟨1, 0⟩, ⟨1, match form with | .primary => 0 | .aliased => 1⟩, fKey rec_.primary] ++ fList (fun k => [fKey k]) rec_.aliases
          ++ [⟨1, t.cls?.getD 0⟩, p.stateField t] ++ fOpt 1 t.zone? ++ [exposed, fRemaining (p.remaining t),
            fFlag t.account.warned, fFlag t.account.exhausted] ++ fOptMinute t.account.expiredAt ++ [⟨1, t.account.bakeCount⟩]
          ++ effectiveBody x.holdRead ++ holderBody x.holderRead ++ (match rec_.link with
            | none => [⟨1, 0⟩]
            | some b => [⟨1, 1⟩, ⟨2, b⟩, ⟨2, t.members⟩]) ++ [⟨4, rec_.enrolled⟩]))
    ∧ (∀ k station need, x.request = .verify k station need →
      let gives := fun (verdict reason : Nat) (holder : Body) => Answers .read s cmd.ctx x p .ok
        ([⟨1, verdict⟩, ⟨1, reason⟩, ⟨1, 1⟩, fRemaining (p.remaining t), ⟨1, 1⟩, p.stateField t] ++ fOpt 1 t.zone? ++ holder)
      let onFloor := ∃ r, t = .resident r ∧ (p.zoneAt r.zone).kind = .floor
      let short := ∃ m, p.remaining t = some m ∧ m < need
      let elsewhere := fun (h : Checkout) => h.port ≠ x.port ∨ h.station ≠ station
      (t.account.exhausted = true → gives 1 5 [⟨1, 0⟩])
      ∧ (t.account.exhausted = false →
        (t.account.expiredAt ≠ none → gives 1 6 [⟨1, 0⟩])
        ∧ (t.account.expiredAt = none →
          (x.holdRead ≠ none → gives 1 7 [⟨1, 0⟩])
          ∧ (x.holdRead = none →
            (¬ onFloor → gives 1 8 [⟨1, 0⟩])
            ∧ (onFloor →
              (∀ h, x.holderRead = some h → elsewhere h → gives 1 9 [⟨1, 1⟩, ⟨1, h.port⟩, ⟨1, h.station⟩])
              ∧ ((∀ h, x.holderRead = some h → ¬ elsewhere h) →
                (short → gives 1 10 [⟨1, 0⟩]) ∧ (¬ short → gives 0 0 [⟨1, 0⟩])))))))
    ∧ (∀ k station watch slot rec_, x.request = .checkout k station watch → x.working.head? = some (slot, rec_) →
      s.part.roomToWrite 1 = true →
      (t.account.exhausted = true → Answers .read s cmd.ctx x p .exhausted [])
      ∧ (t.account.exhausted = false → t.account.expiredAt ≠ none → Answers .read s cmd.ctx x p .expired [])
      ∧ (∀ o cls a, t = .sealed o cls a → a.exhausted = false → a.expiredAt = none →
          Answers .read s cmd.ctx x p .wrongState [])
      ∧ (∀ r, t = .resident r → r.acct.exhausted = false → r.acct.expiredAt = none →
          ((p.zoneAt r.zone).kind ≠ .floor → Answers .read s cmd.ctx x p .wrongState [])
          ∧ ((p.zoneAt r.zone).kind = .floor → p.freeCheckout = none → Answers .read s cmd.ctx x p .noCheckoutSpace [])
          ∧ (∀ i, (p.zoneAt r.zone).kind = .floor → p.freeCheckout = some i →
              let rec' := { rec_ with checkout := some i }
              let entry : Checkout :=
                { slot := slot, primary := rec_.primary, port := x.port, station := station, since := p.minuteNow }
              Answers .read s cmd.ctx x (({ p with engine.checkouts := tput p.engine.checkouts i entry } : Part).pushWrite
                (some cmd.ctx) (.record slot ⟨rec', checkWordOf slot rec'⟩)) .ok
                [fKey rec_.primary, ⟨2, i⟩, ⟨1, station⟩, ⟨4, p.minuteNow⟩, ⟨1, r.zone⟩, fRemaining (p.remaining t),
                  fFlag r.acct.warned]
              ∧ (s.part.unfaulted x = true → Caches .read s slot rec'))))

/-- LIST_DUE (R56) at its taking and step by step: the list is brought current and its counts read; each step passes or
collects one tally; the last releases the list and the waiting LIST_DUE is answered (R57). The number of entries and the list's
own count byte are the model's reading of R172 (log 16); that the command completes in the act of its last step (log 20), that a
walk over a list that holds no tally ends in a step of its own (log 67), and that the remaining minutes of an entry are reckoned at
the step that collects it (log 88), is its choice. -/
def Obligations.ListDueWalksFromTheHead : Prop :=
  (∀ (s : State) (cmd : TallyCmd) (z cls skip want : Nat), s.part.Takes cmd → cmd.op = .listDue z cls skip want →
    let p := (s.part.took cmd).bringListed z cls
    let d := p.listAt (z * 8 + cls)
    ∃ t page, exec .listDueCommand s = .next t ∧ t.pending = s.pending
      ∧ t.part = { p with
          tally.lists := tset p.tally.lists (z * 8 + cls) { d with walk := some (.listDue cmd.id skip want d.order page) } {} }
      ∧ page.count = d.order.length ∧ page.entries = []
      ∧ (d.expiryCursor = none → page.beforeExpiry = d.order.length)
      ∧ (d.warnCursor = none → page.beforeWarn = d.order.length)
      ∧ (∀ pre n post, d.order = pre ++ n :: post → n ∉ pre →
          (d.expiryCursor = some n → page.beforeExpiry = pre.length)
          ∧ (d.warnCursor = some n → page.beforeWarn = pre.length)))
  ∧ ∀ (s : State) (l id skip want : Nat) (todo : List Nat) (page : DuePage), s.part.quiet = true → l < 256 →
    (s.part.listAt l).walk = some (.listDue id skip want todo page) →
    let ended : DueList := { s.part.listAt l with
      walk := none
      busy := (s.part.listAt l).busy || s.part.tally.bakeWalks.any fun b => b.zone == l / 8 }
    let completes := fun (last : DuePage) => ∀ cmd x z cls k m, s.part.tally.queue.find? (fun c => c.id == id) = some cmd →
      s.part.Awaits cmd.ctx x → x.request = .listDue z cls k m →
      Answers (.listDueWalkStep l) s cmd.ctx x ({ s.part with
        tally.lists := tset s.part.tally.lists l ended {}
        tally.queue := s.part.tally.queue.filter fun d => d.id != id } : Part) .ok
        ([⟨4, last.count⟩, ⟨4, last.beforeExpiry⟩, ⟨4, last.beforeWarn⟩, ⟨2, last.entries.length⟩]
          ++ fList (fun e => fOwner e.owner e.members ++ [fRemaining e.remaining, fFlag e.warned, fFlag e.expired,
            fFlag e.exhausted] ++ fOptMinute e.expiredAt ++ [⟨1, e.bakeCount⟩]) last.entries)
    (todo = [] → completes page)
    ∧ ∀ n rest r, todo = n :: rest → s.part.residentAt n = some r →
      let entry : DueEntry :=
        { owner := r.owner, members := r.members, remaining := s.part.remaining (.resident r), warned := r.acct.warned
          expired := r.acct.expiredAt.isSome, exhausted := r.acct.exhausted, expiredAt := r.acct.expiredAt
          bakeCount := r.acct.bakeCount }
      let collected : DuePage := if skip = 0 then { page with entries := page.entries ++ [entry] } else page
      let ends := rest = [] ∨ want ≤ collected.entries.length
      let going : DueList := { s.part.listAt l with walk := some (.listDue id (skip - 1) want rest collected) }
      (¬ ends → exec (.listDueWalkStep l) s = .next { s with part := { s.part with
        tally.lists := tset s.part.tally.lists l going {} } })
      ∧ (ends → completes collected)

/-- INSERTION_WALK_STEP (R36, R37, R39): a tally with a greater due mark is passed; at one that is lower or equal, or past the
head, the new tally is placed with its marks, a fresh arm sequence and its flags set against the kept meter value, with the notice
of a flag set and its holder copies (R165), and each cursor stands on the first tally of the list that lacks its flag (R33). -/
def Obligations.InsertionWalkPlacesByDueMark : Prop :=
  ∀ (s : State) (l cmd n m due warn : Nat) (pos : Option Nat) (r : Resident), s.part.quiet = true → l < 256 →
    (s.part.listAt l).walk = some (.insertion cmd n m due warn pos) → s.part.residentAt n = some r →
    let p := s.part
    let d := p.listAt l
    let passes := ∃ t, pos = some t ∧ due < p.dueOf t ∧ prevIn t d.order ≠ none
    (∀ t b, pos = some t → due < p.dueOf t → prevIn t d.order = some b →
      let going : DueList := { d with walk := some (.insertion cmd n m due warn (some b)) }
      exec (.insertionWalkStep l) s = .next { s with part := { p with tally.lists := tset p.tally.lists l going {} } })
    ∧ (¬ passes →
      let after := match pos with
        | some t => if p.dueOf t ≤ due then some t else none
        | none => none
      let order := insertAfter after n d.order
      let marks : Marks :=
        { due := due, warn := warn, seq := p.tally.armSeq, prevLink := prevIn n order, nextLink := nextIn n order }
      let placed := fun (a : Account) (u : PortUnit) => ∃ t, exec (.insertionWalkStep l) s = .next t ∧ t.pending = s.pending
        ∧ t.part.residentAt n = some { r with acct := a, marks := some marks }
        ∧ (t.part.listAt l).order = order ∧ (t.part.listAt l).walk = none
        ∧ (t.part.listAt l).expiryCursor = (order.find? fun k => (t.part.residentAt k).any fun y => y.acct.expiredAt.isNone)
        ∧ (t.part.listAt l).warnCursor = (order.find? fun k => (t.part.residentAt k).any fun y => !y.acct.warned)
        ∧ t.part.tally.armSeq = min (p.tally.armSeq + 1) (2 ^ 48 - 1)
        ∧ t.part.tally.occupancy = p.tally.occupancy ∧ t.part.tally.useCounts = p.tally.useCounts
        ∧ t.part.zone = p.zone ∧ t.part.engine = p.engine ∧ t.part.mem = p.mem
        ∧ t.part.port = u
      let body := fun (kind : Nat) (last : Field) =>
        [⟨1, kind⟩] ++ fOwner r.owner r.members ++ [⟨1, r.zone⟩, ⟨1, r.cls⟩, ⟨4, p.minuteNow⟩, last]
      (r.acct.expiredAt ≠ none → placed r.acct p.port)
      ∧ (r.acct.expiredAt = none → due ≤ m → placed { r.acct with warned := true, expiredAt := some p.expiryMinute }
          (p.port.withTallyNotice .expired (body 2 (fMinute p.expiryMinute)) (p.holders n)))
      ∧ (r.acct.expiredAt = none → m < due → warn ≤ m → placed { r.acct with warned := true }
          (if r.acct.warned then p.port
            else p.port.withTallyNotice .warn (body 1 (fRemaining (p.remaining (.resident r)))) (p.holders n)))
      ∧ (r.acct.expiredAt = none → m < due → m < warn → placed { r.acct with warned := false } p.port))

/-- TALLY_WRITE_COMPLETE (R58): the tally area holds the written tally; the last write of a command whose acts are done
completes it (R43): its result is stored in its context (R142), an entry that frees in a full queue goes to the context
performed first of those that wait, the record and bag changes tied to the command are made (R63, R65 to R69, R71) and the
record cache follows (R124), a retired slot returns to the free list (R101, R154), and the context is answered or issues its
next command (R146, R150 to R153, R132). TALLY_COMMAND_ISSUED (R142): the context performed first issues. That a freed entry is
given out before the completing context's own next command, and that the FREE and the SEAL of R67 are issued in one act (log
28), the numbering of the ending command (log 17), the layout of optional fields and lists (log 16), the free value of an
exposure that its 4 bytes do not hold (log 64), that the access that ends grants the next before the act goes on (log 25), the
order of the member records of a bag that forms among themselves (log 83), the moments at which a member's SEAL reads the member
count left (log 89) and FORCE_RETIRE the fault list length (log 56) are the model's choice. -/
def Obligations.TallyWritesAndCommandsGoInOrder : Prop :=
  (∀ (s : State) (w : TallyWrite) (rest : List TallyWrite), s.part.quiet = true → s.part.path.inFlight = some .tally →
    s.part.tally.writes = w :: rest →
    let p : Part := { s.part with mem.tallies := tset s.part.mem.tallies w.n w.tally .free, tally.writes := rest }
    let exposed := fun (n : Nat) =>
      let e := s.part.exposure (s.part.tallyAt n)
      (⟨4, if e / 16 ≤ 4294967295 then e / 16 else Config.unstatedExposure e⟩ : Field)
    let account := fun (n : Nat) =>
      let t := s.part.tallyAt n
      [s.part.stateField t, exposed n, fRemaining (s.part.remaining t), fFlag t.account.warned, fFlag t.account.expiredAt.isSome,
        fFlag t.account.exhausted] ++ fOptMinute t.account.expiredAt ++ [⟨1, t.account.bakeCount⟩]
    let keys := fun (ks : List Key) => fList (fun k => [fKey k]) ks
    (w.cmd = none ∨ (∃ id, w.cmd = some id ∧ ((∃ v ∈ rest, v.cmd = some id)
        ∨ ∀ d ∈ s.part.tally.queue, d.id = id → d.finished = false)) →
      ∃ t, exec .tallyWriteComplete s = .next t ∧ t.pending = s.pending ∧ t.part.ungranted = p.ungranted)
    ∧ (∀ cmd x, w.cmd = some cmd.id → s.part.tally.queue.find? (fun d => d.id == cmd.id) = some cmd → cmd.finished = true →
        (∀ v ∈ rest, v.cmd ≠ some cmd.id) → s.part.ctx? cmd.ctx = some x →
        (∃ t, exec .tallyWriteComplete s = .next t ∧ t.pending = s.pending
          ∧ (∀ y, t.part.ctx? cmd.ctx = some y → ∀ d ∈ x.commands, d.id = cmd.id → ∃ r, { d with result := some r } ∈ y.commands
              ∧ r.status = .ok ∧ r.credit = cmd.credit
              ∧ r.fresh.map (fun f => (f.n, f.tally, f.exposure, f.remaining)) = (opTallies cmd.op).map fun n =>
                (n, s.part.tallyAt n, s.part.exposure (s.part.tallyAt n), s.part.remaining (s.part.tallyAt n)))
          ∧ (∀ c y op ops, s.part.tally.queue.length = 32 → s.part.ctx? c = some y → c ≠ cmd.ctx → y.active = true →
              y.toIssue = op :: ops →
              (∀ e ∈ s.part.engine.contexts, e.2.active = true → e.2.toIssue ≠ [] → e.1 ≠ c → y.performSeq < e.2.performSeq) →
              ∃ d ∈ t.part.tally.queue, d.id = s.part.tally.nextCmd ∧ d.ctx = c ∧ d.op = op))
        ∧ (∀ bag n dest b z ms hold created r, cmd.op = .split bag n dest → x.request = .moveGroup b z → x.reply = none →
            s.part.tally.queue.length < 32 → tfind x.working n = some r →
            s.part.bagAt (bag - 65536) = .live ms hold created → (∃ m ∈ ms, m.1 ≠ n) → s.part.roomToWrite 2 = true →
            let r' := { r with link := none, hold := r.hold.or hold }
            let left := ms.filter fun m => m.1 != n
            GoesOn .tallyWriteComplete s cmd.ctx
              ((((p.endAccess.without cmd).pushWrite (some cmd.ctx) (.record n ⟨r', checkWordOf n r'⟩)).setBag (bag - 65536)
                (.live left hold created)).pushWrite (some cmd.ctx) (.bag (bag - 65536) (.live left hold created)))
              (fun y => y.left = x.left ++ [r.primary] ∧ y.toIssue = x.toIssue ∧ y.outstanding = x.outstanding - 1)
            ∧ Caches .tallyWriteComplete s n r'))
    ∧ (∀ cmd x, w.cmd = some cmd.id → s.part.tally.queue.find? (fun d => d.id == cmd.id) = some cmd → cmd.finished = true →
        (∀ v ∈ rest, v.cmd ≠ some cmd.id) → s.part.Awaits cmd.ctx x →
        let q := p.endAccess.without cmd
        let c := cmd.ctx
        let answers := fun (q : Part) (body : Body) => Answers .tallyWriteComplete s c x q .ok body
        let credit := fOpt 4 (cmd.credit.map fun g => g / 16)
        let parted := fun (bag n : Nat) (r : CarrierRecord) (hold : Option Nat) (record : BagRecord) =>
          let r' := { r with link := none, hold := r.hold.or hold }
          ((q.pushWrite (some c) (.record n ⟨r', checkWordOf n r'⟩)).setBag (bag - 65536) record).pushWrite (some c)
            (.bag (bag - 65536) record)
        let shrunk := fun (bag : Nat) (record : BagRecord) =>
          (q.setBag (bag - 65536) record).pushWrite (some c) (.bag (bag - 65536) record)
        let returned := fun (n : Nat) => s.part.slotAt n = .retiring → n ∉ s.part.engine.retired →
          (∀ e ∈ s.part.path.missFile, e.2.slot ≠ some n) → (∀ e ∈ s.part.path.missWait, False) →
          ∃ t, exec .tallyWriteComplete s = .next t ∧ t.part.slotAt n = .free
            ∧ t.part.engine.slotFree = s.part.engine.slotFree.push n
        (∀ n k cls e b k' cls' e' b', cmd.op = .create n k cls e b → x.request = .enroll k' cls' e' b' →
          answers q [fKey k, ⟨2, n⟩, ⟨1, cls⟩, exposed n,
              ⟨1, (s.part.tallyAt n).account.bakeCount⟩])
        ∧ (∀ n z k, cmd.op = .arm n z → x.request = .openKeys z [k] → answers q ([fKey k, ⟨1, z⟩] ++ account n))
        ∧ (∀ bag members z z' ks (records : List CarrierRecord), cmd.op = .join bag members z' → x.request = .openKeys z ks →
          members.map (tfind x.working) = records.map some → members.Nodup → s.part.roomToWrite (members.length + 1) = true →
          let b := bag - 65536
          let found := members.zip records
          let record : BagRecord := .live (found.map fun m => (m.1, m.2.primary)) none s.part.minuteNow
          answers { q with
              engine.bags := tset s.part.engine.bags b record .free
              path.queue := s.part.path.queue ++ ⟨some c, .bag b record⟩ :: found.map fun m =>
                ⟨some c, .record m.1 ⟨{ m.2 with link := some b }, checkWordOf m.1 { m.2 with link := some b }⟩⟩ }
            ([⟨2, b⟩, ⟨1, z⟩, ⟨2, members.length⟩, ⟨1, (s.part.tallyAt bag).cls?.getD 0⟩] ++ account bag)
          ∧ (s.part.unfaulted x = true → ∃ t, exec .tallyWriteComplete s = .next t ∧ t.part.path.cache =
              found.foldl (fun cache m => cacheAfter cache m.1 { m.2 with link := some b }) s.part.path.cache))
        ∧ (∀ n z z' k st, cmd.op = .move n z' → x.request = .move k z st →
          answers q ([fKey k, ⟨1, z⟩] ++ account n ++ credit))
        ∧ (∀ bag z b, cmd.op = .move bag z → x.request = .moveGroup b z →
          answers q ([⟨2, b⟩, ⟨1, z⟩, ⟨2, (s.part.tallyAt bag).members⟩] ++ keys x.left ++ account bag))
        ∧ (∀ n k, cmd.op = .seal n → x.request = .seal k →
          answers q ([fKey k, exposed n, ⟨4, cmd.credit.getD 0 / 16⟩]
            ++ [fFlag (s.part.tallyAt n).account.warned, fFlag (s.part.tallyAt n).account.expiredAt.isSome,
              fFlag (s.part.tallyAt n).account.exhausted, ⟨1, (s.part.tallyAt n).account.bakeCount⟩] ++ x.head))
        ∧ (∀ bag n dest ms hold created r, cmd.op = .split bag n dest → tfind x.working n = some r →
          s.part.bagAt (bag - 65536) = .live ms hold created → s.part.roomToWrite 2 = true →
          let left := ms.filter fun m => m.1 != n
          let going := parted bag n r hold (.live left hold created)
          let closing := parted bag n r hold (.closing hold created)
          let body := fun (k : Key) (z : Nat) => [fKey k, ⟨1, z⟩] ++ account n ++ credit ++ [⟨2, left.length⟩]
          (s.part.unfaulted x = true → (∃ k z st, x.request = .move k z st) ∨ (∃ k, x.request = .seal k) →
            Caches .tallyWriteComplete s n { r with link := none, hold := r.hold.or hold })
          ∧ (∀ k z st, x.request = .move k z st →
            (left ≠ [] → answers going (body k z))
            ∧ (left = [] → s.part.tally.queue.length ≤ 32 → GoesOn .tallyWriteComplete s c (closing.withCommand c (.free bag))
                fun y => y.reply = some ⟨.ok, body k z⟩ ∧ y.outstanding = 1))
          ∧ (∀ k, x.request = .seal k →
            (left ≠ [] → s.part.tally.queue.length ≤ 32 → GoesOn .tallyWriteComplete s c (going.withCommand c (.seal n))
              fun y => y.head = [⟨2, left.length⟩] ∧ y.outstanding = 1)
            ∧ (left = [] → s.part.tally.queue.length ≤ 31 →
              GoesOn .tallyWriteComplete s c ((closing.withCommand c (.free bag)).withCommand c (.seal n))
              fun y => y.head = [⟨2, 0⟩] ∧ y.outstanding = 2)))
        ∧ (∀ n bag ms hold created, cmd.op = .leave n bag → s.part.bagAt (bag - 65536) = .live ms hold created →
          s.part.roomToWrite 1 = true →
          let left := ms.filter fun m => m.1 != n
          let going := shrunk bag (.live left hold created)
          let closing := (shrunk bag (.closing hold created)).withCommand c (.free bag)
          let retireBody : Body := x.head ++ [⟨1, 1⟩, ⟨1, 0⟩]
          let forceBody : Body := x.head ++ [⟨1, 1⟩, ⟨1, 0⟩, ⟨2, s.part.engine.faults.length⟩]
          let ends := fun (body : Body) => (left ≠ [] → answers going body)
            ∧ (left = [] → s.part.tally.queue.length ≤ 32 → GoesOn .tallyWriteComplete s c closing fun y =>
                y.reply = some ⟨.ok, body⟩ ∧ y.outstanding = 1)
          (∀ k reason st, x.request = .retire k reason st → ends retireBody ∧ returned n)
          ∧ (∀ position slot, x.request = .forceRetire position slot → ends forceBody))
        ∧ (∀ n, cmd.op = .free n → n < 65536 →
          (∀ k reason st, x.request = .retire k reason st → answers q (x.head ++ [⟨1, 0⟩, ⟨1, 0⟩]) ∧ returned n)
          ∧ (∀ position slot, x.request = .forceRetire position slot →
              answers q (x.head ++ [⟨1, 0⟩, ⟨1, 0⟩, ⟨2, s.part.engine.faults.length⟩])))
        ∧ (∀ bag r, cmd.op = .free bag → 65536 ≤ bag → x.reply = some r → s.part.roomToWrite 1 = true →
          (∃ k z st, x.request = .move k z st) ∨ (∃ k, x.request = .seal k) ∨ (∃ k n st, x.request = .retire k n st)
            ∨ (∃ b z, x.request = .moveGroup b z) ∨ (∃ n slot, x.request = .forceRetire n slot) →
          Answers .tallyWriteComplete s c x { shrunk bag .free with
            engine.bagFree := s.part.engine.bagFree.push (bag - 65536) } r.status r.body)))
  ∧ ∀ (s : State) (c : Nat) (x : Context) (op : TallyOp) (rest : List TallyOp), s.part.quiet = true →
      s.part.nextIssuer = some c → s.part.ctx? c = some x → x.toIssue = op :: rest →
      (32 ≤ s.part.tally.queue.length → exec .tallyCommandIssued s = .next s)
      ∧ (s.part.tally.queue.length < 32 →
          exec .tallyCommandIssued s = .next { s with part := { s.part.withCommand c op with
            engine.contexts := tput s.part.engine.contexts c { x with
              toIssue := rest, outstanding := x.outstanding + 1
              commands := x.commands ++ [{ id := s.part.tally.nextCmd, op := op }]
              stage := if rest = [] then .awaitingTally else .performed } } })

/-! ### The request engine and the record path (05 to 08) -/

/-- A write joins the write stream (R125): a record write replaces the body of the youngest queued write of its slot when that
one is not the head in flight and only record writes of other slots stand behind it; any other write, a record write that finds
no such write among them, takes the tail of the queue, or is held. A read looks into the write stream first (R126): the
youngest write that answers it gives its value, a record unchecked; where none does, it waits for the port. -/
def Obligations.WriteJoinsTheWriteStream : Prop :=
  ∀ (p : Part) (ctx : Option Nat) (b : WriteBody),
    let w : QWrite := ⟨ctx, b⟩
    let coalesces := fun (before : List QWrite) (v : QWrite) (behind : List QWrite) => p.path.queue = before ++ v :: behind
      ∧ ∃ slot st, b = .record slot st ∧ v.body.recordSlot? = some slot ∧ (before ≠ [] ∨ p.path.inFlight ≠ some .write)
        ∧ ∀ u ∈ behind ++ p.path.held, ∃ slot', slot' ≠ slot ∧ u.body.recordSlot? = some slot'
    ((∀ before v behind, ¬ coalesces before v behind) →
      (p.path.queue.length < 8 → p.path.held = [] →
        (p.pushWrite ctx b).ungranted = ({ p with path.queue := p.path.queue ++ [w] } : Part).ungranted)
      ∧ (8 ≤ p.path.queue.length ∨ p.path.held ≠ [] → p.pushWrite ctx b = { p with path.held := p.path.held ++ [w] }))
    ∧ (∀ before v behind, coalesces before v behind →
        p.pushWrite ctx b = { p with path.queue := before ++ { v with body := b } :: behind })
    ∧ (∀ (client : ReadClient) (target : ReadTarget),
        (∀ before u behind value, p.path.queue ++ p.path.held = before ++ u :: behind → u.body.answers target = some value →
          (∀ y ∈ behind, y.body.answers target = none) →
          p.issueRead client target = { p with path.returned := p.path.returned ++ [⟨⟨client, target, true⟩, value⟩] })
        ∧ ((∀ u ∈ p.path.queue ++ p.path.held, u.body.answers target = none) → p.issueRead client target =
          ({ p with path.waiting := p.path.waiting ++ [⟨client, target, true⟩] } : Part).arbitrate))
    ∧ (∀ target : ReadTarget,
        (∀ slot st, (WriteBody.record slot st).answers target =
          if target = .record slot then some (.record (some st.record) true) else none)
        ∧ (∀ n lot e, (WriteBody.branch n lot e).answers target = if target = .branch n lot then some (.branch e) else none)
        ∧ (∀ n serial e, (WriteBody.leaf n serial e).answers target = if target = .leaf n serial then some (.leaf e) else none)
        ∧ (∀ n t, (WriteBody.block n t).answers target = match target with
          | .branch n' lot => if n = n' then some (.branch (tget (Block.branches t) lot {})) else none
          | .leaf n' serial => if n = n' then some (.leaf (tget (Block.leaves t) serial .empty)) else none
          | .record _ => none)
        ∧ ((∃ n r, b = .bag n r) ∨ (∃ n r, b = .root n r) ∨ (∃ w, b = .setting w) → b.answers target = none))

/-- REQUEST_TAKEN (R136, R137, R139, R107, R117, R121, R198, R201): the oldest of the four queue heads goes to the lowest free
context; a mode that does not serve it answers it; a request behind one that changes what a key of its resolves to stays
CHAINED; else each key gets the exempt check and the probe: it hits, parks on the walk of its key, begins a walk in the lowest
free entry, or waits. A key that hits counts as resolved by a PRIMARY leaf entry, which is the model's inference (log 82). The keys of
one request are probed in the order it names them, and a head that ties cannot be (the arrival sequences differ); the first is the
model's choice (log 57). A context is to be performed (R140, R144) exactly when
every key of its has resolved, it heads its key chains, bag chain and slot chains (R137), no context is active on its slots,
nor on a member's slot of the bag of a MOVE_GROUP as its list stands (R70), while every key that the MOVE_GROUP has probed is
waited for (log 73), it is the oldest of its kind where it is a CONSIGNOR or LOT hold or an EXEMPT_SET (R112, R187), no
RELEASE_ALL of another holds a table it needs (R167, R169), no RANGE_IN_USE check runs over its new key (R108: up to the
install, which is the model's choice where the answer comes later, log 79), and no start is about to begin. -/
def Obligations.RequestTakenIsGatedCheckedAndProbed : Prop :=
  (∀ (p : Part) (c : Nat),
    let keys := fun (r : Request) => match r with
      | .enroll k .. | .lookup k | .verify k .. | .move k .. | .seal k | .retire k .. | .checkout k .. | .release k .. => [k]
      | .openKeys _ ks => ks
      | .relabel old new _ => [old, new]
      | .hold (.carrier k) _ | .unhold (.carrier k) _ => [k]
      | _ => []
    let bag := fun (r : Request) => match r with
      | .moveGroup b _ | .listBag b | .hold (.bag b) _ | .unhold (.bag b) _ => some b
      | _ => none
    let active := fun (x : Context) => x.stage = .performed ∨ x.stage = .awaitingTally ∨ x.stage = .awaitingWrite
    let onSlot := fun (x : Context) (n : Nat) => (active x ∧ n ∈ x.slots)
      ∨ (¬ active x ∧ ((∃ position, x.request = .forceRetire position n)
        ∨ ((∀ position k, x.request ≠ .forceRetire position k) ∧ ∃ k ∈ x.keys, ∃ i r form, k.res = .entry i n r form)))
    let member := fun (x : Context) (n : Nat) => ∃ b z ms hold created k, x.request = .moveGroup b z
      ∧ p.bagAt b = .live ms hold created ∧ (n, k) ∈ ms
    let kind := fun (r : Request) => match r with
      | .hold (.consignor _) _ | .unhold (.consignor _) _ | .hold (.lot ..) _ | .unhold (.lot ..) _ => some 0
      | .exemptSet .. => some 1
      | _ => none
    let needs := fun (r : Request) => requestCode r ∈ [2, 3, 4, 5, 6, 7, 8, 9, 10, 11, 32, 34]
      ∨ ∃ port station skip want, r = .listCheckouts port station skip want ∧ (∀ i, port = some i → i ≤ 3)
        ∧ (∀ t, station = some t → t ≤ 255) ∧ skip ≤ 2047 ∧ 1 ≤ want ∧ want ≤ 32
    let newKey := fun (r : Request) (k : Key) => (∃ cls e b, r = .enroll k cls e b) ∨ ∃ old st, r = .relabel old k st
    p.performable c = true ↔ p.engine.startOwed = none ∧ ∃ x, p.ctx? c = some x ∧ x.stage = .resolving
      ∧ (∀ k ∈ x.keys, k.res ≠ .chained ∧ k.res ≠ .missWait ∧ k.res ≠ .fetching)
      ∧ (∀ e ∈ p.engine.contexts, e.1 ≠ c → e.2.stage ≠ .answered →
          (∀ n, onSlot x n ∨ member x n → ¬ (active e.2 ∧ n ∈ e.2.slots))
          ∧ (e.2.arrival < x.arrival → (∀ k ∈ keys x.request, k ∉ keys e.2.request)
            ∧ (∀ b, bag x.request = some b → bag e.2.request ≠ some b)
            ∧ (∀ n, onSlot x n → ¬ onSlot e.2 n)
            ∧ (∀ g, kind x.request = some g → kind e.2.request ≠ some g)))
      ∧ (∀ ra, p.engine.releaseAll = some ra → ra.ctx ≠ c → ¬ needs x.request)
      ∧ (∀ rc k, p.engine.range = some rc → rc.begun = true → newKey x.request k →
          rc.proposed.coversLot k.consignor k.lot = false))
  ∧ ∀ (s : State) (c i : Nat) (q : Queued) (queued : List Queued), s.part.quiet = true → s.part.sized = true →
    c < 16 → s.part.ctx? c = none → (∀ k, k < c → s.part.ctx? k ≠ none) →
    i < 4 → (s.part.portAt i).requests = q :: queued →
    (∀ j, j < 4 → j ≠ i → ∀ r rs, (s.part.portAt j).requests = r :: rs → q.arrival < r.arrival) →
    let p : Part := { s.part with port.ports := modifyAt s.part.port.ports i fun r => { r with requests := queued } }
    let x : Context := { port := i, tag := q.tag, arrival := q.arrival, request := q.request }
    let takes := fun (y : Context) => { p with engine.contexts := tput s.part.engine.contexts c y }
    let mode := s.part.engine.mode
    let code := requestCode q.request
    let readOnly := mode = .readOnly ∧ code ∈ [1, 4, 5, 6, 7, 8, 9, 10, 11, 15, 16, 20, 34]
    let notReady := (mode = .awaitTime ∧ code ∉ [22, 23, 24, 25, 26, 27, 28, 29, 30, 31])
      ∨ (mode = .unformatted ∧ code ∉ [22, 36]) ∨ ((∃ ph, mode = .rebuilding ph) ∧ code ≠ 22)
    let closed := ∃ e ∈ s.part.engine.contexts, e.2.stage ≠ .answered ∧ e.2.arrival < q.arrival
      ∧ ∃ k ∈ requestKeys q.request, k ∈ requestKeys e.2.request ∧ ((∃ cls e' b, e.2.request = .enroll k cls e' b)
        ∨ (∃ reason st, e.2.request = .retire k reason st) ∨ ∃ old st, e.2.request = .relabel old k st)
    let inRange := fun (k : Key) (r : ExemptRange) =>
      r.enabled = true ∧ ((k.consignor ++ k.lot) ^^^ (r.consignor ++ r.lot)) &&& ~~~ r.mask = 0#20
    let exempt := fun (k : Key) (n : Nat) (r : ExemptRange) => s.part.engine.exempt[n]? = some r ∧ inRange k r
      ∧ ∀ j r', j < n → s.part.engine.exempt[j]? = some r' → ¬ inRange k r'
    let open_ := fun (k : Key) => ∀ r ∈ s.part.engine.exempt, ¬ inRange k r
    let flushed := fun (k : Key) => ∃ f, s.part.path.flush = some f ∧ k.consignor = f.consignor
      ∧ ∀ l, f.lot = some l → k.lot = l
    let cached := fun (k : Key) (index : Nat) (e : CacheEntry) => tfind s.part.path.cache index = some e
      ∧ index / 4 = k.serial.toNat % 64 ∧ e.record.primary = k
      ∧ ∀ j e', (j, e') ∈ s.part.path.cache → j / 4 = k.serial.toNat % 64 → e'.record.primary = k → j = index
    let uncached := fun (k : Key) => flushed k ∨ ∀ j e', (j, e') ∈ s.part.path.cache →
      j / 4 = k.serial.toNat % 64 → e'.record.primary ≠ k
    let walked := fun (k : Key) (e : Nat) (w : Walk) => s.part.path.missFile.find? (fun e => e.2.key == k) = some (e, w)
    let counter := (s.part.path.counter + 1) % 4
    (s.part.hasHeld c = false → s.part.flushes c = false →
      (readOnly → Answers .requestTaken s c x p .readOnly []) ∧ (notReady → Answers .requestTaken s c x p .notReady []))
    ∧ (¬ readOnly → ¬ notReady →
      (closed → exec .requestTaken s = .next { s with part := takes x })
      ∧ (¬ closed →
        (requestKeys q.request = [] → (∀ b z, q.request ≠ .moveGroup b z) →
          exec .requestTaken s = .next { s with part := takes { x with stage := .resolving } })
        ∧ (∀ k, requestKeys q.request = [k] → c ∉ s.part.path.missWait →
          let resolved := fun (r : Resolution) => takes { x with stage := .resolving, keys := [⟨k, r⟩] }
          (∀ n r, exempt k n r → exec .requestTaken s = .next { s with part := resolved (.exempt r.barred n) })
          ∧ (open_ k → ∀ index e, ¬ flushed k → cached k index e →
            exec .requestTaken s = .next { s with part := { resolved (.entry index e.slot s.part.engine.readies .primary) with
              path.counter := counter, engine.readies := s.part.engine.readies + 1 } })
          ∧ (open_ k → uncached k →
            (∀ e w, walked k e w → c ∉ w.parked → exec .requestTaken s = .next { s with part := { resolved .fetching with
              path.counter := counter, path.missFile := tput s.part.path.missFile e { w with parked := w.parked ++ [c] } } })
            ∧ (∀ e b, (∀ e w, ¬ walked k e w) → e < 8 → tfind s.part.path.missFile e = none →
              (∀ j, j < e → tfind s.part.path.missFile j ≠ none) → (s.part.rootAt k.consignor.toNat).branch = some b →
              ∃ t, exec .requestTaken s = .next t ∧ t.pending = s.pending ∧ t.part.books = p.books ∧ t.part.port = p.port
                ∧ t.part.ctx? c = some { x with stage := .resolving, keys := [⟨k, .fetching⟩] }
                ∧ tfind t.part.path.missFile e = some { key := k, stage := .branch, slot := none
                                                        epoch := s.part.engine.epoch, parked := [c]
                                                        conHold := (s.part.rootAt k.consignor.toNat).hold }
                ∧ t.part.asked (.walk e) (.branch b k.lot.toNat))
            ∧ (∀ e, (∀ e w, ¬ walked k e w) → e < 8 → tfind s.part.path.missFile e = none →
              s.part.path.missWait = [] → (s.part.rootAt k.consignor.toNat).branch = none →
              ∃ t, exec .requestTaken s = .next t ∧ t.pending = s.pending ∧ t.part.books = p.books ∧ t.part.port = p.port
                ∧ t.part.ctx? c = some { x with stage := .resolving, keys := [⟨k, .notFound⟩] })
            ∧ ((∀ e w, ¬ walked k e w) → (∀ e, e < 8 → tfind s.part.path.missFile e ≠ none) →
              exec .requestTaken s = .next { s with part := { resolved .missWait with
                path.counter := counter, path.missWait := s.part.path.missWait ++ [c] } })))
        ∧ (∀ keys : List Key, keys = (match q.request with
              | .moveGroup b _ => (s.part.bagAt b).members.map fun m => m.2
              | r => requestKeys r) →
          ∃ t y, exec .requestTaken s = .next t ∧ t.pending = s.pending ∧ t.part.books = p.books ∧ t.part.port = p.port
            ∧ t.part.ctx? c = some y ∧ y.keys.map CtxKey.key = keys ∧ y.stage = .resolving ∧ y.request = q.request
            ∧ ∀ k ∈ y.keys,
              let byTurn := ∃ old st, q.request = .relabel old k.key st ∧ old ≠ k.key
              let group := ∃ b z, q.request = .moveGroup b z
              (∀ n r, ¬ group → exempt k.key n r → k.res = .exempt r.barred n)
              ∧ (group ∨ open_ k.key →
                (byTurn → k.res = .byTurn)
                ∧ (¬ byTurn → ∀ index e, ¬ flushed k.key → cached k.key index e → ∃ n,
                  k.res = .entry index e.slot n .primary)
                ∧ (¬ byTurn → uncached k.key → k.res = .fetching ∨ k.res = .missWait ∨ k.res = .notFound)))))

/-- MISS_WAIT_PROBE (R121, R123): the oldest waiting context probes again; it hits, parks on the walk of its key, begins a walk
in a free entry, or waits on with its place kept; it leaves the MISS_WAIT order once no key of its waits. How the probes of a
walk's end follow one another (log 59), and that a hit counts as resolved by a PRIMARY leaf entry (log 82), is the model's choice. WALK_READ_COMPLETE is `WalkStepsFromRootToFill`. -/
def Obligations.MissWaitProbesOldestFirst : Prop :=
  ∀ (s : State) (c : Nat) (k : Key) (rest : List (Nat × Key)) (x : Context), s.part.alive = true →
    s.part.engine.startOwed = none → s.part.path.owedProbes = (c, k) :: rest → s.part.ctx? c = some x →
    let p : Part := { s.part with path.owedProbes := rest, path.counter := (s.part.path.counter + 1) % 4 }
    let y := fun (r : Resolution) => { x with keys := x.keys.map fun e => if e.key = k then { e with res := r } else e }
    let now := fun (r : Resolution) => { p with engine.contexts := tput s.part.engine.contexts c (y r) }
    let waits := fun (r : Resolution) =>
      if (y r).keys.any (fun e => e.res == .missWait) then s.part.path.missWait else s.part.path.missWait.erase c
    (∀ index e, s.part.probeHit k = some (index, e) →
      exec .missWaitProbe s = .next { s with part := { now (.entry index e.slot s.part.engine.readies .primary) with
        path.missWait := waits (.entry index e.slot s.part.engine.readies .primary)
        engine.readies := s.part.engine.readies + 1 } })
    ∧ (s.part.probeHit k = none →
      (∀ e w, s.part.path.missFile.find? (fun e => e.2.key == k) = some (e, w) → c ∉ w.parked →
        exec .missWaitProbe s = .next { s with part := { now .fetching with
          path.missWait := waits .fetching
          path.missFile := tput s.part.path.missFile e { w with parked := w.parked ++ [c] } } })
      ∧ (s.part.path.missFile.find? (fun e => e.2.key == k) = none →
        (s.part.freeEntry = none → c ∈ s.part.path.missWait →
          exec .missWaitProbe s = .next { s with part := now .missWait })
        ∧ (∀ e b, s.part.freeEntry = some e → (s.part.rootAt k.consignor.toNat).branch = some b →
          ∃ t, exec .missWaitProbe s = .next t ∧ t.pending = s.pending ∧ t.part.books = s.part.books
            ∧ t.part.port = s.part.port ∧ t.part.ctx? c = some (y .fetching)
            ∧ tfind t.part.path.missFile e = some { key := k, stage := .branch, slot := none, epoch := s.part.engine.epoch
                                                    parked := [c], conHold := (s.part.rootAt k.consignor.toNat).hold }
            ∧ t.part.path.missWait = waits .fetching
            ∧ t.part.asked (.walk e) (.branch b k.lot.toNat))))

/-- WALK_READ_COMPLETE (R103 to R105, R118, R122, R126, R129 to R131), of a read of the memory and of one answered from the
write stream, whose record is not checked: branch entry, leaf entry and slot state, record and fill; an outcome is given to
every parked context, and a record that fails its check is a fault on a LIVE slot, listed or, behind 16 listed, counted
unlisted with the passage to READ_ONLY, whose parked contexts are given RECORD_FAULT and whose cache entry is removed. The
holds of a primary key of another consignor or lot are read before the fill; a walk of an older epoch begins again from the
root entry; the walk keeps the form of the leaf entry that it has read, and the keys it resolves take it (R147); the entry of a
primary key that stands is kept, unless a flush in flight is to remove it (R133); what a fill
installs is the newest write made for the slot (R116), with the pin it asks for (R120), also where a change has overtaken the
read (log 55). That a FREE slot ends the walk NOT_FOUND (log 52), that the minute of a MODE_CHANGE is an optional field (log
65), and when a forwarded read returns (log 12), is the model's choice. -/
def Obligations.WalkStepsFromRootToFill : Prop :=
  ∀ (s : State) (e : Nat) (w : Walk) (target : ReadTarget) (v : ReadValue), s.part.quiet = true → e < 8 →
    s.part.returns (.walk e) target v → tfind s.part.path.missFile e = some w →
    let ends := fun (t : State) (r : Resolution) => exec (.walkReadComplete e) s = .next t ∧ t.pending = s.pending
      ∧ tfind t.part.path.missFile e = none
      ∧ ∀ c ∈ w.parked, ∀ x, s.part.ctx? c = some x → ∃ y, t.part.ctx? c = some y
          ∧ y.keys = x.keys.map fun k => if k.key = w.key then { k with res := r } else k
    let fails := fun (r : Resolution) => ∃ t, ends t r ∧ t.part.books = s.part.books ∧ t.part.port = s.part.port
    let goesOn := fun (w' : Walk) (next : ReadTarget) => ∃ t, exec (.walkReadComplete e) s = .next t ∧ t.pending = s.pending
      ∧ tfind t.part.path.missFile e = some w' ∧ t.part.asked (.walk e) next
      ∧ t.part.books = s.part.books ∧ t.part.port = s.part.port
    let restarts := ∀ b, (s.part.rootAt w.key.consignor.toNat).branch = some b →
      goesOn { key := w.key, stage := .branch, slot := none, epoch := s.part.engine.epoch, parked := w.parked
               conHold := (s.part.rootAt w.key.consignor.toNat).hold } (.branch b w.key.lot.toNat)
    let newest := fun (slot : Nat) (r n : CarrierRecord) =>
      let made := streamValue s.part.stream (.record slot)
      made = some (.record (some n) true)
        ∨ (made = none ∧ s.part.mem.value (.record slot) = .record (some n) true)
        ∨ (made = none ∧ (∀ m, s.part.mem.value (.record slot) ≠ .record (some m) true) ∧ n = r)
    let reaches := fun (slot : Nat) (read : CarrierRecord) (conHold lotHold : Option Nat) => ∀ r, newest slot read r →
      let stale := fun (k : CacheEntry) => ∃ f, s.part.path.flush = some f ∧ f.hits r.primary = true ∧ k.fillEpoch ≠ f.epoch
      let ready := fun (i : Nat) (known : State → Prop) => ∃ t, exec (.walkReadComplete e) s = .next t ∧ t.pending = s.pending
        ∧ known t
        ∧ (∀ c ∈ w.parked, ∀ x, s.part.ctx? c = some x → ∃ y n, t.part.ctx? c = some y
            ∧ ∀ k ∈ y.keys, k.key = w.key → k.res = .entry i slot n w.form)
        ∧ tfind t.part.path.missFile e = none ∧ t.part.books = s.part.books ∧ t.part.port = s.part.port
      let filled := fun (i : Nat) => ready i fun t =>
        tfind t.part.path.cache i = some { slot := slot, record := r, conHold := conHold, lotHold := lotHold
                                           pinned := r.checkout.isSome, fillEpoch := s.part.engine.epoch }
      (∀ i k, s.part.cacheFind r.primary = some (i, k) → ¬ stale k → ready i fun t => t.part.path.cache = s.part.path.cache)
      ∧ (s.part.cacheFind r.primary = none ∨ (∃ i k, s.part.cacheFind r.primary = some (i, k) ∧ stale k) →
          ∃ i, i / 4 = r.primary.serial.toNat % 64 ∧ filled i)
    (w.stage = .branch → ∀ b, v = .branch b →
      (b.leaf = none → fails .notFound)
      ∧ ∀ l, b.leaf = some l → goesOn { w with stage := .leaf, lotHold := b.hold } (.leaf l w.key.serial.toNat))
    ∧ (w.stage = .leaf → ∀ l, v = .leaf l →
      (l = .empty → fails .notFound)
      ∧ ∀ slot form, (l = .primary slot ∧ form = .primary) ∨ (l = .aliasOf slot ∧ form = .aliased) →
        (s.part.slotAt slot = .live → goesOn { w with stage := .record, slot := some slot, form := form } (.record slot))
        ∧ (s.part.slotAt slot = .faulted → fails .recordFault)
        ∧ (s.part.slotAt slot = .retiring ∨ s.part.slotAt slot = .free → fails .notFound)
        ∧ (s.part.slotAt slot = .withdrawn → ∃ t, ends t .notFound ∧ t.part.port = s.part.port ∧ t.part.books =
            ({ s.part with engine.turn := s.part.engine.turn ++ [{ owner := .withdrawn w.key slot }] } : Part).books))
    ∧ (w.stage = .record → ∀ slot, w.slot = some slot → s.part.slotAt slot = .live →
      (∀ r, v = .record r false →
        ∃ t, exec (.walkReadComplete e) s = .next t ∧ t.pending = s.pending ∧ t.part.slotAt slot = .faulted
          ∧ t.part.books = (s.part.withFault slot w.key).books ∧ t.part.port = (s.part.withFault slot w.key).port
          ∧ (∀ c ∈ w.parked, ∀ x, s.part.ctx? c = some x → ∃ y, t.part.ctx? c = some y
              ∧ ∀ k ∈ y.keys, k.key = w.key → k.res = .recordFault)
          ∧ (∀ i k, s.part.cacheOfSlot slot = some (i, k) → s.part.slotActive slot = false → tfind t.part.path.cache i = none))
      ∧ (∀ r, v = .record (some r) true →
          let near := r.primary.consignor = w.key.consignor ∧ r.primary.lot = w.key.lot
          let root := s.part.rootAt r.primary.consignor.toNat
          (near → w.epoch ≠ s.part.engine.epoch → restarts)
          ∧ (near → w.epoch = s.part.engine.epoch → reaches slot r w.conHold w.lotHold)
          ∧ (¬ near → ∀ b, root.branch = some b →
              goesOn { w with stage := .holds, record := some r, conHold := root.hold, lotHold := none }
                (.branch b r.primary.lot.toNat))
          ∧ (¬ near → root.branch = none → (w.epoch ≠ s.part.engine.epoch → restarts)
              ∧ (w.epoch = s.part.engine.epoch → reaches slot r root.hold none))))
    ∧ (w.stage = .holds → ∀ slot r b, w.slot = some slot → w.record = some r → v = .branch b →
      (w.epoch ≠ s.part.engine.epoch → restarts)
      ∧ (w.epoch = s.part.engine.epoch →
        (s.part.slotAt slot = .live → reaches slot r w.conHold b.hold)
        ∧ (s.part.slotAt slot = .faulted → fails .recordFault)
        ∧ (s.part.slotAt slot = .retiring ∨ s.part.slotAt slot = .withdrawn ∨ s.part.slotAt slot = .free → fails .notFound)))

/-- UPDATE_READ_COMPLETE (R141): the reads of the update that holds the directory turn are made in order, one at a time, which is
the model's choice (log 75); the last makes the act of its request: the entry of an ENROLL or RELABEL inserted, in the leaf block
that stands or in a new one (R97, R146, R156), or refused; the entries of a RETIRE removed, its primary entry and then each alias entry, its checkout released with
cause RETIRED, its cache entry removed and its slot RETIRING (R98, R153, R164); the fault list entry, the leaf entry and the
checkout entry of a FORCE_RETIRE removed without a notice, its slot WITHDRAWN, and LEAVE or FREE issued (R132); the removal
that a walk at a WITHDRAWN slot owes (R104). A removal is made where the entry still names the carrier's slot; the last entry
of a leaf block returns the block to the free block list, and the last leaf block of a consignor its branch block (R98); a
returned block is not written (log 38). A read of a returned block, or one answered that would be followed by one, is
abandoned, and its operation begins again from the root entry in the act (R99, R122): a walk keeps its miss file entry, its
epoch and its parked contexts; a LOT-level hold request that finds no branch block is refused NOT_FOUND (R114); a RANGE_IN_USE
check begins with the first entry again (R108; the order of its reads is the model's choice, log 53, as is the range number in
its answer, log 66). -/
def Obligations.DirectoryTurnMakesItsReadsThenItsAct : Prop :=
  ∀ (s : State) (u : Update) (rest : List Update) (target : ReadTarget) (v : ReadValue), s.part.quiet = true →
    s.part.returns .update target v → s.part.engine.turn = u :: rest →
    let p : Part := { s.part with engine.turn := rest }
    let noReader := s.part.engine.holdRead = none ∧ s.part.engine.range = none
    let blocksStay := fun (q : Part) => q.engine.blockFree = s.part.engine.blockFree ∨ noReader
    let abandons := fun (q : Part) (k : Key) (slot : Nat) (t : State) => noReader → (s.part.leafAt k).slot? = some slot →
      ∀ b l e w r v, (s.part.rootAt k.consignor.toNat).branch = some b → (s.part.branchNow b k.lot.toNat).leaf = some l →
        tfind s.part.path.missFile e = some w → r.client = .walk e → r.live = true →
        (r ∈ s.part.path.waiting ∨ s.part.path.inFlight = some (.read r) ∨ ⟨r, v⟩ ∈ s.part.path.returned) →
        (((s.part.branchNow b k.lot.toNat).live ≤ 1 ∧ r.target.block? = some l)
          ∨ ((q.rootAt k.consignor.toNat).branch = none ∧ r.target.block? = some b)
          ∨ ((s.part.branchNow b k.lot.toNat).live ≤ 1 ∧ ⟨r, v⟩ ∈ s.part.path.returned ∧ w.stage = .branch
            ∧ (∃ n lot, r.target = .branch n lot) ∧ ∃ entry, v = .branch entry ∧ entry.leaf = some l)) →
        (∀ b', (q.rootAt w.key.consignor.toNat).branch = some b' → ∃ more,
          tfind t.part.path.missFile e = some { key := w.key, stage := .branch, slot := none, epoch := w.epoch
                                                parked := w.parked ++ more
                                                conHold := (q.rootAt w.key.consignor.toNat).hold }
          ∧ t.part.asked (.walk e) (.branch b' w.key.lot.toNat))
        ∧ ((q.rootAt w.key.consignor.toNat).branch = none → ∀ c ∈ w.parked, ∀ x, s.part.ctx? c = some x →
          ∃ y, t.part.ctx? c = some y ∧ ∀ k ∈ y.keys, k.key = w.key → k.res = .notFound)
    (∀ r next more, u.reads = r :: next :: more →
      ∃ t, exec .updateReadComplete s = .next t ∧ t.pending = s.pending ∧ t.part.port = s.part.port
        ∧ t.part.books = ({ s.part with engine.turn := { u with reads := next :: more } :: rest } : Part).books
        ∧ t.part.asked .update next)
    ∧ (∀ r, u.reads = [r] →
        (∀ k slot, u.owner = .withdrawn k slot →
          let q := p.entryRemoved none slot k
          s.part.roomToWrite 2 = true →
          (blocksStay q → ∃ t, exec .updateReadComplete s = .next t ∧ t.pending = s.pending ∧ t.part.port = s.part.port
            ∧ t.part.books = q.books ∧ t.part.path.cache = s.part.path.cache ∧ abandons q k slot t)
          ∧ ∀ b lot, (s.part.rootAt k.consignor.toNat).branch = some b → (q.rootAt k.consignor.toNat).branch = none →
            (∀ c x (un : Bool) level reason, s.part.engine.range = none → s.part.engine.holdRead = some c → s.part.Waits c x →
              s.part.flushes c = false → s.part.asked .hold (.branch b lot) →
              x.request = (if un then .unhold (.lot k.consignor.toNat level) reason
                else .hold (.lot k.consignor.toNat level) reason) →
              Answers .updateReadComplete s c x { q with engine.holdRead := none } .notFound [])
            ∧ (∀ rc, s.part.engine.holdRead = none → s.part.engine.range = some rc → s.part.asked .range (.branch b lot) →
              (∀ con' lot' b', q.nextRange rc.proposed 0 0 = some (con', lot', b') →
                ∃ t, exec .updateReadComplete s = .next t ∧ t.pending = s.pending ∧ t.part.port = s.part.port
                  ∧ t.part.books = ({ q with
                      engine.range := some { rc with begun := true, consignor := con', lot := lot' } } : Part).books
                  ∧ t.part.asked .range (.branch b' lot'))
              ∧ (∀ x, q.nextRange rc.proposed 0 0 = none → s.part.Waits rc.ctx x → s.part.flushes rc.ctx = false →
                s.part.roomToWrite 3 = true →
                Answers .updateReadComplete s rc.ctx x { q with
                  engine.range := none
                  engine.exempt := modifyAt s.part.engine.exempt rc.range fun _ => rc.proposed
                  path.queue := q.path.queue ++ [⟨some rc.ctx, .setting (.exempt rc.range rc.proposed)⟩] } .ok
                  [⟨1, rc.range⟩, fFlag rc.proposed.enabled, ⟨1, rc.proposed.consignor.toNat⟩, ⟨2, rc.proposed.lot.toNat⟩,
                    ⟨3, rc.proposed.mask.toNat⟩, fFlag rc.proposed.barred])))
        ∧ (∀ c x position slot f, u.owner = .request c → s.part.Waits c x → x.request = .forceRetire position slot →
          s.part.engine.faults.find? (fun f => f.slot == slot) = some f →
          let q := p.entryRemoved (some c) slot f.key
          s.part.roomToWrite 2 = true → blocksStay q → s.part.roomToIssue = true →
          let held := s.part.checkoutOf slot
          ∃ t y, exec .updateReadComplete s = .next t ∧ t.pending = s.pending ∧ t.part.port = s.part.port
            ∧ t.part.slotAt slot = .withdrawn
            ∧ t.part.ctx? c = some y ∧ y.stage = .awaitingTally ∧ y.head = [⟨2, slot⟩, fKey f.key, fFlag held.isSome]
            ∧ t.part.books = (({ q with
                engine.faults := s.part.engine.faults.filter fun f => f.slot != slot
                engine.checkouts := (match held with
                  | some e => tdel s.part.engine.checkouts e.1
                  | none => s.part.engine.checkouts) } : Part).withCommand c
                (match s.part.engine.bags.find? (fun e => e.2.members.any fun m => m.1 == slot) with
                  | some e => .leave slot (65536 + e.1)
                  | none => .free slot)).books
            ∧ abandons q f.key slot t)
        ∧ (∀ c x key reason station slot rec_, u.owner = .request c → s.part.Waits c x →
          x.request = .retire key reason station → x.working.head? = some (slot, rec_) → s.part.slotAt slot = .live →
          s.part.roomToIssue = true →
          let keys := rec_.primary :: rec_.aliases
          let held := s.part.checkoutOf slot
          let bare := { rec_ with checkout := none, watch := [] }
          let freed := match held with
            | none => p
            | some (i, co) => ({ p.giveReleased rec_ .retired (some co) (some reason) with
                engine.checkouts := tdel s.part.engine.checkouts i } : Part).pushWrite (some c)
                (.record slot ⟨bare, checkWordOf slot bare⟩)
          let removed := (keys.filter fun k => (s.part.leafAt k).slot? == some slot).length
          let q := keys.foldl (fun q k => q.entryRemoved (some c) slot k) freed
          s.part.roomToWrite (1 + 2 * keys.length) = true → blocksStay q →
          ∃ t y, exec .updateReadComplete s = .next t ∧ t.pending = s.pending ∧ t.part.port = freed.port
            ∧ t.part.slotAt slot = .retiring
            ∧ t.part.ctx? c = some y ∧ y.stage = .awaitingTally
            ∧ y.head = [fKey rec_.primary, ⟨2, removed⟩, ⟨1, reason⟩, fFlag held.isSome]
            ∧ t.part.books = (q.withCommand c (match rec_.link with
                | none => .free slot
                | some bag => .leave slot (65536 + bag))).books
            ∧ (∀ i e, s.part.cacheOfSlot slot = some (i, e) → tfind t.part.path.cache i = none)
            ∧ (∀ i e, tfind s.part.path.cache i = some e → e.slot ≠ slot →
                (∀ j e', s.part.cacheOfSlot slot = some (j, e') → j ≠ i) → tfind t.part.path.cache i = some e)
            ∧ (rec_.aliases = [] → abandons q rec_.primary slot t)))
    ∧ (∀ r c x k b, u.reads = [r] → u.owner = .request c → s.part.Waits c x → s.part.flushes c = false →
        (s.part.rootAt k.consignor.toNat).branch = some b →
        let entry := s.part.branchNow b k.lot.toNat
        let w := fun (b : WriteBody) => (⟨some c, b⟩ : QWrite)
        let root := s.part.rootAt k.consignor.toNat
        let vacant := s.part.leafAt k = .empty
        let inserted := fun (q : Part) (l slot : Nat) (leaf : LeafEntry) (r : CarrierRecord) => { q with
          engine.roots := tset s.part.engine.roots k.consignor.toNat root {}
          path.queue := s.part.path.queue ++ [w (.branch b k.lot.toNat { entry with live := entry.live + 1 }),
            w (.leaf l k.serial.toNat leaf), w (.record slot ⟨r, checkWordOf slot r⟩)] }
        let opened := fun (q : Part) (l : Nat) (blocks : FreeList) (slot : Nat) (leaf : LeafEntry) (r : CarrierRecord) => { q with
          engine.roots := tset s.part.engine.roots k.consignor.toNat { root with live := root.live + 1 } {}
          engine.blockFree := blocks
          path.queue := s.part.path.queue ++ [w (.block l (.leaf [(k.serial.toNat, leaf)])),
            w (.branch b k.lot.toNat { entry with leaf := some l, live := 1 }), w (.record slot ⟨r, checkWordOf slot r⟩)] }
        (∀ cls exposure bakes, x.request = .enroll k cls exposure bakes →
          let r : CarrierRecord := { primary := k, enrolled := s.part.minuteNow }
          let enrolls := fun (slot : Nat) (free : FreeList) (q : Part) =>
            ∃ t, exec .updateReadComplete s = .next t ∧ t.pending = s.pending ∧ t.part.port = s.part.port
              ∧ t.part.slotAt slot = .live ∧ t.part.engine.slotFree = free
              ∧ t.part.path.cache = cacheAfter s.part.path.cache slot r
              ∧ t.part.books = (q.withCommand c (.create slot k cls (exposure.getD 0) (bakes.getD 0))).books
          (¬ vacant → Answers .updateReadComplete s c x p .exists_ [])
          ∧ (vacant → s.part.engine.slotFree.pop = none → Answers .updateReadComplete s c x p .noSlot [])
          ∧ (vacant → entry.leaf = none → s.part.engine.blockFree.size = 0 → s.part.engine.slotFree.pop ≠ none →
              Answers .updateReadComplete s c x p .noTable [])
          ∧ (∀ slot free, vacant → s.part.engine.slotFree.pop = some (slot, free) → s.part.roomToWrite 3 = true →
              s.part.roomToIssue = true →
              (∀ l, entry.leaf = some l → enrolls slot free (inserted p l slot (.primary slot) r))
              ∧ ∀ l blocks, entry.leaf = none → s.part.engine.blockFree.pop = some (l, blocks) →
                s.part.engine.blockFree.size ≠ 0 → enrolls slot free (opened p l blocks slot (.primary slot) r)))
        ∧ (∀ old station slot rec_, x.request = .relabel old k station → x.working.head? = some (slot, rec_) →
          let r := { rec_ with aliases := rec_.aliases ++ [k] }
          let relabels := fun (q : Part) => Answers .updateReadComplete s c x q .ok
              (fKey rec_.primary :: fList (fun k => [fKey k]) (rec_.aliases ++ [k]))
            ∧ (s.part.unfaulted x = true → Caches .updateReadComplete s slot r)
          (¬ vacant → Answers .updateReadComplete s c x p .exists_ [])
          ∧ (vacant → entry.leaf = none → s.part.engine.blockFree.size = 0 → Answers .updateReadComplete s c x p .noTable [])
          ∧ (∀ l, vacant → entry.leaf = some l → s.part.roomToWrite 3 = true → relabels (inserted p l slot (.aliasOf slot) r))
          ∧ (∀ l blocks, vacant → entry.leaf = none → s.part.engine.blockFree.pop = some (l, blocks) →
              s.part.engine.blockFree.size ≠ 0 → s.part.roomToWrite 3 = true →
              relabels (opened p l blocks slot (.aliasOf slot) r))))

/-- HOLD_READ_COMPLETE and PATTERN_FLUSH_STEP (R112, R114, R133): the branch entry's hold changes in the act, the hold epoch
rises and a flush begins that clears one set of the cache a step, the last set in the step that answers the request. The
contexts READY on an entry that the flush will remove, or that is removed, return to PROBING and probe again in the act (R114,
R119). That the entry is taken as it stands with the writes queued (log 45), and that the answer lays a hold with its reason
out as a set or clear byte with the reason after it (log 16), is the model's choice. -/
def Obligations.LotHoldBeginsTheFlushThatAnswersIt : Prop :=
  (∀ (s : State) (target : ReadTarget) (v : ReadValue) (c : Nat) (x : Context) (un : Bool) (con lot reason b : Nat),
    s.part.quiet = true →
    s.part.returns .hold target v → s.part.engine.holdRead = some c → s.part.Waits c x → s.part.flushes c = false →
    x.request = (if un then .unhold (.lot con lot) reason else .hold (.lot con lot) reason) →
    (s.part.rootAt con).branch = some b →
    let p : Part := { s.part with engine.holdRead := none }
    let e := s.part.branchNow b lot
    let after := if un then none else some reason
    let body : Body := [⟨1, 1⟩, ⟨1, con⟩, ⟨2, lot⟩] ++ fOpt 1 after ++ fOpt 1 e.hold
    let epoch := if s.part.engine.epoch = 2 ^ 32 - 1 then 0 else s.part.engine.epoch + 1
    (∀ r, un = true → e.hold = some r → r ≠ reason → Answers .holdReadComplete s c x p .wrongState [])
    ∧ (e.hold = after → Answers .holdReadComplete s c x p .ok body)
    ∧ (e.hold ≠ after → (un = true → e.hold = some reason) → s.part.roomToWrite 1 = true →
        ∃ t y, exec .holdReadComplete s = .next t ∧ t.pending = s.pending ∧ t.part.port = s.part.port
          ∧ t.part.books = ({ p with
              path.queue := s.part.path.queue ++ [⟨some c, .branch b lot { e with hold := after }⟩]
              path.flush := some { consignor := BitVec.ofNat 8 con, lot := some (BitVec.ofNat 12 lot), epoch := epoch
                                   nextSet := 0, ctx := c }
              engine.epoch := epoch } : Part).books
          ∧ t.part.ctx? c = some y ∧ y.stage = .awaitingWrite ∧ y.reply = some ⟨.ok, body⟩
          ∧ ∀ f, t.part.path.flush = some f → Reprobes .holdReadComplete s c f fun _ k => f.hits k.record.primary))
  ∧ ∀ (s : State) (f : Flush), s.part.quiet = true → s.part.path.flush = some f →
      let gone := (s.part.path.cache.filter fun e => e.1 / 4 == f.nextSet && f.hits e.2.record.primary
        && e.2.fillEpoch != f.epoch).map (·.1)
      (f.nextSet < 63 → ∃ t, exec .patternFlushStep s = .next t ∧ t.pending = s.pending ∧ t.part.port = s.part.port
        ∧ t.part.path.cache = s.part.path.cache.filter (fun e => !gone.contains e.1)
        ∧ t.part.books = ({ s.part with path.flush := some { f with nextSet := f.nextSet + 1 } } : Part).books
        ∧ Reprobes .patternFlushStep s f.ctx f fun i _ => gone.contains i)
      ∧ (∀ x r, 63 ≤ f.nextSet → s.part.Waits f.ctx x → x.reply = some r →
          Answers .patternFlushStep s f.ctx x ({ s.part with path.flush := none } : Part) r.status r.body
          ∧ ∃ t, exec .patternFlushStep s = .next t ∧ (∀ i ∈ gone, tfind t.part.path.cache i = none)
            ∧ ∀ d y, d ≠ f.ctx → s.part.ctx? d = some y → y.stage = .resolving → ∀ k ∈ y.keys, ∀ i slot n form, i ∈ gone →
              k.res = .entry i slot n form → ∃ y', t.part.ctx? d = some y'
                ∧ ∀ k' ∈ y'.keys, k'.key = k.key → k'.res ≠ .chained ∧ ∀ slot n form, k'.res ≠ .entry i slot n form)

/-- RANGE_CHECK_READ_COMPLETE (R108, R195): a leaf block found refuses the EXEMPT_SET; else the next matching branch entry, of the
least consignor and lot not yet read that the range covers and whose consignor has a branch block, is
read, and after the last the range is installed and written. At either end the contexts of an ENROLL or RELABEL whose new key the
range covers have their exempt check made afresh (R108): at once where the key has resolved, so that one which held the outcome of
a range that no longer covers it goes on to its probe or its turn, and where not at their performance
(`DirectoryRequestsAskForTheTurn`), which is the model's choice (log 42); so are the order of the reads (log 53) and that of the
contexts (log 57), and that the answer of an accepted EXEMPT_SET begins with the range number (log 66). -/
def Obligations.RangeCheckRefusesOrInstalls : Prop :=
  (∀ (p : Part) (r : ExemptRange) (con lot : Nat), Table.rising p.engine.roots = true →
    let behind := fun (c l : Nat) => con < c ∨ (c = con ∧ lot ≤ l)
    let matching := fun (c l b : Nat) => (p.rootAt c).branch = some b ∧ l < 4096 ∧ behind c l
      ∧ r.coversLot (BitVec.ofNat 8 c) (BitVec.ofNat 12 l) = true
    ∀ c l b, p.nextRange r con lot = some (c, l, b) ↔ matching c l b
      ∧ ∀ c' l' b', matching c' l' b' → c < c' ∨ (c = c' ∧ l ≤ l'))
  ∧ ∀ (s : State) (target : ReadTarget) (rc : RangeCheck) (x : Context) (e : BranchEntry), s.part.quiet = true →
    s.part.returns .range target (.branch e) → s.part.engine.range = some rc →
    s.part.Waits rc.ctx x → s.part.flushes rc.ctx = false →
    let p : Part := { s.part with engine.range := none }
    let n := rc.proposed
    let rechecks := fun (ranges : List ExemptRange) => ∃ t, exec .rangeCheckReadComplete s = .next t
      ∧ ∀ c y k, c ≠ rc.ctx → s.part.ctx? c = some y → y.stage = .resolving → insertsKey y.request = some k →
          n.coversLot k.consignor k.lot = true → ∃ y', t.part.ctx? c = some y' ∧ y'.request = y.request
            ∧ ((y.resolutionOf k).resolved = true → ∀ barred i, exemptOutcome ranges k = some (barred, i) →
                ∀ e ∈ y'.keys, e.key = k → e.res = .exempt barred i)
            ∧ ((y.resolutionOf k).isExempt = true → exemptOutcome ranges k = none →
                ∀ e ∈ y'.keys, e.key = k → e.res.isExempt = false)
            ∧ ((y.resolutionOf k).resolved = false → y'.recheck = true)
    (e.leaf ≠ none →
      Answers .rangeCheckReadComplete s rc.ctx x p .rangeInUse [⟨1, rc.consignor⟩, ⟨2, rc.lot⟩]
      ∧ rechecks s.part.engine.exempt)
    ∧ (e.leaf = none → s.part.nextRange n rc.consignor (rc.lot + 1) = none → s.part.roomToWrite 1 = true →
      Answers .rangeCheckReadComplete s rc.ctx x ({ p with
        engine.exempt := modifyAt s.part.engine.exempt rc.range fun _ => n
        path.queue := s.part.path.queue ++ [⟨some rc.ctx, .setting (.exempt rc.range n)⟩] } : Part) .ok
        [⟨1, rc.range⟩, fFlag n.enabled, ⟨1, n.consignor.toNat⟩, ⟨2, n.lot.toNat⟩, ⟨3, n.mask.toNat⟩, fFlag n.barred]
      ∧ rechecks (modifyAt s.part.engine.exempt rc.range fun _ => n))
    ∧ (∀ con lot b, e.leaf = none → s.part.nextRange n rc.consignor (rc.lot + 1) = some (con, lot, b) →
      ∃ t, exec .rangeCheckReadComplete s = .next t ∧ t.pending = s.pending ∧ t.part.port = s.part.port
        ∧ t.part.asked .range (.branch b lot)
        ∧ t.part.books = ({ s.part with
            engine.range := some { rc with begun := true, consignor := con, lot := lot } } : Part).books)

/-- QUEUE_WRITE_COMPLETE and HELD_WRITE_QUEUED (R125, R127): the record memory holds the head write whole, as a read forwarded
from it would have answered; the oldest held write takes the free entry, and the context whose last it was is answered, which
for a RELEASE_ALL releases the table (R168). The arbiter (R128) grants an idle port to the first requester in cyclic order
after the one last granted that offers an access; the record path offers its oldest read and the head write by turns; an access
that ends is followed by such a grant. That the tally unit offers writes alone, since the reads of a rebuild take no turn, is the
model's choice (log 90). -/
def Obligations.QueuedWritesReachMemoryInOrder : Prop :=
  (∀ (p : Part) (a : Access),
    let order : List Requester := match p.path.lastGranted with
      | .path => [.tally, .zone, .path]
      | .tally => [.zone, .path, .tally]
      | .zone => [.path, .tally, .zone]
    let offers := p.offerOf
    (p.path.inFlight ≠ none → p.arbitrate = p)
    ∧ (p.path.inFlight = none →
      ((∀ r, offers r = none) → p.arbitrate = p)
      ∧ ∀ before r behind, order = before ++ r :: behind → (∀ k ∈ before, offers k = none) → offers r = some a →
        p.arbitrate = { p with
          path.inFlight := some a
          path.lastGranted := r
          path.waiting := (match a with
            | .read _ => p.path.waiting.drop 1
            | _ => p.path.waiting)
          path.lastOffered := (match a with
            | .read _ => .read
            | .write => .write
            | _ => p.path.lastOffered) })
    ∧ p.endAccess = ({ p with path.inFlight := none } : Part).arbitrate
    ∧ (p.path.waiting = [] → p.path.queue = [] → offers .path = none)
    ∧ (p.path.waiting = [] → p.path.queue ≠ [] → offers .path = some .write)
    ∧ (∀ r rest, p.path.waiting = r :: rest →
        (p.path.queue = [] ∨ p.path.lastOffered = .write → offers .path = some (.read r))
        ∧ (p.path.queue ≠ [] → p.path.lastOffered = .read → offers .path = some .write))
    ∧ (p.tally.writes = [] → offers .tally = none)
    ∧ (p.tally.writes ≠ [] → offers .tally = some .tally)
    ∧ (p.zone.writes = [] → offers .zone = none)
    ∧ (∀ area gap rest, p.zone.writes = .advance area gap :: rest → offers .zone = some (.advance area gap)))
  ∧ ∀ s : State,
    (∀ w rest, s.part.quiet = true → s.part.path.inFlight = some .write → s.part.path.queue = w :: rest →
      ∃ t, exec .queueWriteComplete s = .next t ∧ t.pending = s.pending
        ∧ t.part.ungranted = ({ s.part with mem := s.part.mem.write w.body, path.queue := rest } : Part).ungranted
        ∧ (∀ target v, w.body.isRecord = false → w.body.answers target = some v → t.part.mem.value target = v)
        ∧ (∀ slot st, w.body = .record slot st →
            t.part.mem.value (.record slot) = .record (some st.record) (st.check == checkWordOf slot st.record)))
    ∧ ∀ w rest, s.part.alive = true → s.part.engine.startOwed = none → s.part.path.owedProbes = [] → s.part.path.held = w :: rest →
        s.part.path.queue.length < 8 →
        let p : Part := { s.part with path.queue := s.part.path.queue ++ [w], path.held := rest }
        (w.ctx = none → ∃ t, exec .heldWriteQueued s = .next t ∧ t.pending = s.pending ∧ t.part.ungranted = p.ungranted)
        ∧ (∀ c x r, w.ctx = some c → p.Waits c x → x.reply = some r → p.flushes c = false →
            Answers .heldWriteQueued s c x p r.status r.body
            ∧ ∀ ra, s.part.engine.releaseAll = some ra → ra.ctx = c →
              ∃ t, exec .heldWriteQueued s = .next t ∧ t.part.engine.releaseAll = none)

/-- RELEASE_ALL (R167, R168): the table is held at performance; the walk may step once the contexts that were still to change
the table, a CHECKOUT with its READ to come and a RETIRE or FORCE_RETIRE with its turn to come, have been answered, no record
is awaited, and no context is active on the slot of a matching entry; each step passes, skips or releases one entry, by the
cached record or by one read of it, on the record as its newest write left it (R124), which the record cache follows (R120); a
record that fails its check is a fault (R129 to R131), listed or, behind 16 listed, counted unlisted with the passage to
READ_ONLY; a slot that is no longer LIVE when its read returns is skipped, which is the model's choice (log 91); after entry 2,047 the request is answered, once its writes have taken their places in the queue, and the table is
released in that act. That the access that returns the record grants the next before the act goes on (log 25), and that the
minute of a MODE_CHANGE is an optional field (log 65), is the model's choice. -/
def Obligations.ReleaseAllVisitsEveryEntry : Prop :=
  let active := fun (x : Context) => x.stage = .performed ∨ x.stage = .awaitingTally ∨ x.stage = .awaitingWrite
  (∀ (p : Part) (ra : ReleaseAll), p.releaseAllReady ra = true ↔ ra.reading = false
    ∧ (∀ e ∈ p.engine.contexts, active e.2 → e.2.performSeq ∉ ra.awaits)
    ∧ ∀ co, tfind p.engine.checkouts ra.nextEntry = some co → (∀ i, ra.port = some i → co.port = i) →
        (∀ t, ra.station = some t → co.station = t) → ∀ e ∈ p.engine.contexts, ¬ (active e.2 ∧ co.slot ∈ e.2.slots))
  ∧ (∀ (s : State) (c : Nat) (x : Context) (port station : Option Nat), s.part.Performs c x → x.request = .releaseAll port station →
    let inRange := (∀ i, port = some i → i ≤ 3) ∧ ∀ t, station = some t → t ≤ 255
    let toChange := fun (e : Nat × Context) => e.1 ≠ c ∧ active e.2
      ∧ (((∃ k t w, e.2.request = .checkout k t w) ∧ (e.2.outstanding ≠ 0 ∨ e.2.toIssue ≠ []))
        ∨ (((∃ k n t, e.2.request = .retire k n t) ∨ ∃ n slot, e.2.request = .forceRetire n slot)
          ∧ ∃ u ∈ s.part.engine.turn, u.owner = .request e.1))
    (¬ inRange → Answers (.releaseAll c) s c x s.part .badField [])
    ∧ (inRange → ∃ t ra, exec (.releaseAll c) s = .next t ∧ t.pending = s.pending ∧ t.part.books = s.part.books
        ∧ t.part.port = s.part.port ∧ t.part.engine.releaseAll = some ra ∧ ra.ctx = c ∧ ra.port = port
        ∧ ra.station = station ∧ ra.nextEntry = 0 ∧ ra.released = 0 ∧ ra.skipped = 0 ∧ ra.reading = false
        ∧ ∀ n, n ∈ ra.awaits ↔ ∃ e ∈ s.part.engine.contexts, toChange e ∧ e.2.performSeq = n))
  ∧ ∀ (s : State) (ra : ReleaseAll) (x : Context), s.part.quiet = true → s.part.engine.releaseAll = some ra →
      s.part.Waits ra.ctx x → s.part.flushes ra.ctx = false → ra.nextEntry < 2048 →
      let next := { ra with nextEntry := ra.nextEntry + 1, reading := false }
      let body := fun (released skipped : Nat) => fOpt 1 ra.port ++ fOpt 1 ra.station ++ [⟨2, released⟩, ⟨2, skipped⟩]
      let entry := tfind s.part.engine.checkouts ra.nextEntry
      let goesOn := fun (i : Instr) (q : Part) (released skipped : Nat) => ∃ t, exec i s = .next t ∧ t.pending = s.pending
        ∧ t.part.books = q.books ∧ t.part.port = q.port
        ∧ t.part.engine.releaseAll = some { next with released := released, skipped := skipped }
      let ends := fun (i : Instr) (q : Part) (released skipped : Nat) =>
        Answers i s ra.ctx x q .ok (body released skipped) ∧ ∃ t, exec i s = .next t ∧ t.part.engine.releaseAll = none
      let passes := fun (i : Instr) (q : Part) (released skipped : Nat) =>
        (ra.nextEntry < 2047 → goesOn i q released skipped) ∧ (ra.nextEntry = 2047 → ends i q released skipped)
      let releases := fun (i : Instr) (q : Part) (slot : Nat) (r : CarrierRecord) => ∀ index holder,
        s.part.checkoutOf slot = some (index, holder) →
        let r' := { r with checkout := none, watch := [] }
        let given := (s.part.giveReleased r .releaseAll (some holder) none).port
        let freed : Part := { ({ q with engine.checkouts := tdel s.part.engine.checkouts index } : Part).pushWrite (some ra.ctx)
          (.record slot ⟨r', checkWordOf slot r'⟩) with port := given }
        (ra.nextEntry < 2047 → goesOn i freed (ra.released + 1) ra.skipped)
        ∧ (ra.nextEntry = 2047 → freed.hasHeld ra.ctx = false → ends i freed (ra.released + 1) ra.skipped)
        ∧ (ra.nextEntry = 2047 → freed.hasHeld ra.ctx = true → goesOn i freed (ra.released + 1) ra.skipped
          ∧ ∃ t y, exec i s = .next t ∧ t.part.ctx? ra.ctx = some y ∧ y.stage = .awaitingWrite
            ∧ y.reply = some ⟨.ok, body (ra.released + 1) ra.skipped⟩)
        ∧ ((∀ n ∈ x.slots, s.part.slotAt n ≠ .faulted) → Caches i s slot r')
      (s.part.releaseAllReady ra = false → exec .releaseAllWalkStep s = .next s)
      ∧ (s.part.releaseAllReady ra = true →
        (entry = none ∨ (∃ co, entry = some co ∧ matchesFilters ra.port ra.station co = false) →
          (ra.nextEntry < 2047 → exec .releaseAllWalkStep s = .next { s with part := { s.part with
            engine.releaseAll := some next } })
          ∧ (ra.nextEntry = 2047 → ends .releaseAllWalkStep s.part ra.released ra.skipped))
        ∧ ∀ co, entry = some co → matchesFilters ra.port ra.station co = true →
          (s.part.slotAt co.slot ≠ .live → passes .releaseAllWalkStep s.part ra.released (ra.skipped + 1))
          ∧ (∀ way e, s.part.slotAt co.slot = .live → s.part.cacheOfSlot co.slot = some (way, e) →
              releases .releaseAllWalkStep s.part co.slot e.record)
          ∧ (s.part.slotAt co.slot = .live → s.part.cacheOfSlot co.slot = none →
              ∃ t, exec .releaseAllWalkStep s = .next t ∧ t.pending = s.pending ∧ t.part.books = s.part.books
                ∧ t.part.port = s.part.port ∧ t.part.asked .releaseAll (.record co.slot)
                ∧ t.part.engine.releaseAll = some { ra with reading := true }))
      ∧ ∀ co v, s.part.returns .releaseAll (.record co.slot) v → entry = some co →
        (s.part.slotAt co.slot ≠ .live → ∀ r checked, v = .record r checked →
          passes .releaseAllRecordRead s.part ra.released (ra.skipped + 1))
        ∧ (s.part.slotAt co.slot = .live →
          let made := streamValue s.part.stream (.record co.slot)
          let q := if s.part.path.returned.find? (fun r => r.read.client == .releaseAll) = none then s.part.endAccess else s.part
          (∀ r r', v = .record (some r) true →
            made = some (.record (some r') true) ∨ (made = none ∧ s.part.mem.value (.record co.slot) = .record (some r') true) →
            releases .releaseAllRecordRead q co.slot r')
          ∧ (∀ r, v = .record r false → passes .releaseAllRecordRead (s.part.withFault co.slot co.primary) ra.released
              (ra.skipped + 1)
            ∧ ∃ t, exec .releaseAllRecordRead s = .next t ∧ t.part.slotAt co.slot = .faulted))

/-! ### Client ports (09) -/

/-- What giving a notice on a port does (R182): on port 0 to 3 alike; the RELEASED notices of a release, one for each port of
the watch set in ascending order, with key, cause, holder, reason and minute (R164), the holder a group with a presence byte
(log 16); and how an idle transmitter takes its next turn, with the overrun flags copied and cleared (R180, R181), in frames of
the layout and the check of R171: an answer in pieces of 248 bytes, all but the last continued, with the request overrun bit in
the first; a notice in one frame with the notice overrun bit. ANSWER_QUEUED and TURN_COMPLETE (R176, R179, R180): the waiting
answer composed first is queued, its request ceases to be outstanding and its context is free; a finished turn makes way for
the next. -/
def Obligations.NoticesAnswersAndTurns : Prop :=
  (∀ (q : Port) (kind : NoticeKind) (body : Body),
       let number := (q.noticeNumber + 1) % 256
       (q.settings.enabled = false → q.takeNotice kind body = q)
       ∧ (q.settings.enabled = true → 32 ≤ q.notices.length →
           q.takeNotice kind body = { q with noticeNumber := number, noticeOverrun := true })
       ∧ (q.settings.enabled = true → q.notices.length < 32 → q.takeNotice kind body =
           ({ q with noticeNumber := number, notices := q.notices ++ [⟨kind, number, body⟩] } : Port).beginTurn)
       ∧ (q.turn ≠ none ∨ (q.answers = [] ∧ q.notices = []) → q.beginTurn = q)
       ∧ (∀ a rest, q.turn = none → q.answers = a :: rest → q.notices = [] ∨ q.lastTurn = .notice → q.beginTurn =
           { q with answers := rest, turn := some ⟨.answer, answerFrames a q.requestOverrun⟩, lastTurn := .answer
                    requestOverrun := false })
       ∧ (∀ n rest, q.turn = none → q.notices = n :: rest → q.answers = [] ∨ q.lastTurn = .answer → q.beginTurn =
           { q with notices := rest, turn := some ⟨.notice, [noticeFrame n q.noticeOverrun]⟩, lastTurn := .notice
                    noticeOverrun := false }))
  ∧ (let bytesOf := fun (b : Body) => b.flatMap fun f => (List.range f.width).map fun i => BitVec.ofNat 8 (f.value / 256 ^ i)
     let check := fun (bytes : List Byte) => bytes.foldl (fun (r : BitVec 16) (b : Byte) => (List.range 8).foldl
       (fun (r : BitVec 16) _ => if r.getLsbD 15 then (r <<< (1 : Nat)) ^^^ 0x1021#16 else r <<< (1 : Nat))
       (r ^^^ (BitVec.setWidth 16 b <<< (8 : Nat)))) 0xFFFF#16
     let frame := fun (kind code tag flags : Nat) (body : List Byte) =>
       let sent : List Byte := [0xC5#8, BitVec.ofNat 8 kind, BitVec.ofNat 8 code, BitVec.ofNat 8 tag, BitVec.ofNat 8 flags,
         BitVec.ofNat 8 body.length] ++ body
       sent ++ [BitVec.ofNat 8 (check sent).toNat, BitVec.ofNat 8 ((check sent).toNat / 256)]
     (∀ (a : Answer) (overrun : Bool),
       let bytes := bytesOf a.body
       let count := max 1 ((bytes.length + 247) / 248)
       answerFrames a overrun = (List.range count).map fun i => frame 2 a.code a.tag
         ((if i = 0 ∧ overrun = true then 1 else 0) + (if i + 1 < count then 4 else 0)) ((bytes.drop (248 * i)).take 248))
     ∧ ∀ (n : Notice) (overrun : Bool),
         noticeFrame n overrun = frame 3 n.kind.code n.number (if overrun then 2 else 0) (bytesOf n.body))
  ∧ (∀ (p : Part) (r : CarrierRecord) (cause : ReleaseCause) (holder : Option Checkout) (reason : Option Nat),
       let code := match cause with
         | .release => 0
         | .releaseAll => 1
         | .retired => 2
         | .start => 3
       let body : Body := [fKey r.primary, ⟨1, code⟩] ++ (match holder with
           | none => [⟨1, 0⟩]
           | some h => [⟨1, 1⟩, ⟨1, h.port⟩, ⟨1, h.station⟩, ⟨4, h.since⟩])
         ++ fOpt 1 reason ++ fOptMinute p.zone.wallMinute
       p.giveReleased r cause holder reason = { p with port.ports := r.watch.foldl (fun ports i =>
         modifyAt ports i fun q => q.takeNotice .released (⟨1, 0⟩ :: body)) p.port.ports })
  ∧ ∀ (s : State) (i : Nat), i < 4 →
         (∀ w rest, s.part.alive = true → s.part.engine.startOwed = none → s.part.path.owedProbes = [] →
           (s.part.portAt i).waitingAnswers = w :: rest → (s.part.portAt i).answers.length < 16 →
           ∃ t, exec (.answerQueued i) s = .next t ∧ t.pending = s.pending ∧ t.part.books = s.part.books
             ∧ t.part.port = { s.part.port with ports := modifyAt s.part.port.ports i fun q =>
                 ({ q with waitingAnswers := rest, answers := q.answers ++ [w.answer], outstanding := q.outstanding - 1 } : Port
                   ).beginTurn }
             ∧ (∀ c, w.ctx = some c → t.part.ctx? c = none)
             ∧ (∀ k, w.answer.starts = some k → t.part.engine.startOwed = some k)
             ∧ (w.answer.starts = none → t.part.engine.startOwed = none))
         ∧ (s.part.quiet = true → (s.part.portAt i).turn ≠ none →
             exec (.turnComplete i) s = .next { s with part := { s.part with
               port.ports := modifyAt s.part.port.ports i fun q => ({ q with turn := none } : Port).beginTurn } })

/-- LOSE_SYNC, CANDIDATE_REJECTED and WRONG_KIND_FRAME (R174, R175, R184) on a port whose framer holds no byte. The presence byte
of the group that a LINK_FAULT of cause KIND carries is the model's choice (log 16). -/
def Obligations.FramerLosesSyncAndHunts : Prop :=
  ∀ (s : State) (i : Nat), s.part.quiet = true → s.part.sized = true → i < 4 → (s.part.portAt i).framer.held = [] →
    let minute := fOptMinute s.part.zone.wallMinute
    let port := fun (f : Framer) (notice : Option Body) (q : Port) => { (match notice with
        | none => q
        | some b => q.takeNotice .linkFault (⟨1, 0⟩ :: b)) with framer := f }
    let becomes := fun (f : Framer) (notice : Option Body) =>
      (⟨s.pending, { s.part with port.ports := modifyAt s.part.port.ports i (port f notice) }⟩ : State)
    (∀ b : Byte, (s.part.portAt i).framer.mode = .sync → b ≠ 0xC5#8 →
      exec (.loseSync i [b]) s = .next
        (becomes { mode := .hunt, held := [] } (some ([⟨1, 0⟩, ⟨1, 0⟩] ++ minute))))
    ∧ (∀ kind code tag flags len : Byte, (s.part.portAt i).framer.mode = .sync → 248 < len.toNat →
      exec (.loseSync i [0xC5#8, kind, code, tag, flags, len]) s = .next
        (becomes { mode := .hunt, held := [] } (some ([⟨1, 1⟩, ⟨1, 0⟩] ++ minute))))
    ∧ (∀ kind code tag flags len : Byte, (s.part.portAt i).framer.mode = .hunt → 248 < len.toNat →
      exec (.candidateRejected i [0xC5#8, kind, code, tag, flags, len]) s = .next
        (becomes { mode := .hunt, held := [kind, code, tag, flags, len].dropWhile (· ≠ 0xC5#8) } none))
    ∧ (∀ (kind code tag flags len lo hi : Byte) (body : List Byte), len.toNat = body.length → body.length ≤ 248 →
      let head : List Byte := [0xC5#8, kind, code, tag, flags, len]
      let bytes := head ++ body ++ [lo, hi]
      let sound := lo = BitVec.ofNat 8 (frameCheck (head ++ body)).toNat
        ∧ hi = BitVec.ofNat 8 ((frameCheck (head ++ body)).toNat / 256)
      (¬ sound → (s.part.portAt i).framer.mode = .sync →
        exec (.loseSync i bytes) s = .next
        (becomes { mode := .hunt, held := [] } (some ([⟨1, 2⟩, ⟨1, 0⟩] ++ minute))))
      ∧ (¬ sound → (s.part.portAt i).framer.mode = .hunt →
        exec (.candidateRejected i bytes) s = .next
        (becomes { mode := .hunt, held := (bytes.drop 1).dropWhile (· ≠ 0xC5#8) } none))
      ∧ (sound → kind ≠ 1 →
        exec (.wrongKindFrame i bytes) s = .next
        (becomes { mode := .sync, held := [] } (some ([⟨1, 3⟩, ⟨1, 1⟩, ⟨1, kind.toNat⟩, ⟨1, tag.toNat⟩] ++ minute)))))

/-- REQUEST_ARRIVAL (R171, R173, R176, R177) of a sound request frame at a port whose framer holds no byte: lost when 16 are
outstanding; else refused by the first check that fails, or accepted with its arrival sequence. -/
def Obligations.RequestArrivalIsCountedAndChecked : Prop :=
  ∀ (s : State) (i : Nat) (code tag flags len lo hi : Byte) (body : List Byte), s.part.quiet = true → s.part.sized = true →
    i < 4 → (s.part.portAt i).framer.held = [] → len.toNat = body.length → body.length ≤ 248 →
    let head : List Byte := [0xC5#8, 1, code, tag, flags, len]
    lo = BitVec.ofNat 8 (frameCheck (head ++ body)).toNat → hi = BitVec.ofNat 8 ((frameCheck (head ++ body)).toNat / 256) →
    let bytes := head ++ body ++ [lo, hi]
    let q := s.part.portAt i
    let counted := { s.part.port with ports := modifyAt s.part.port.ports i fun q =>
      { q with framer := { mode := .sync, held := [] }, outstanding := q.outstanding + 1 } }
    let disabled := i ≠ 0 ∧ q.settings.enabled = false
    let refused := fun (st : Status) => ∃ t, exec (.requestArrival i bytes) s = .next t ∧ t.pending = s.pending
      ∧ t.part.books = s.part.books
      ∧ t.part.port = counted.withAnswer i { code := code.toNat, tag := tag.toNat, body := [⟨1, st.code⟩] } none
    (16 ≤ q.outstanding → exec (.requestArrival i bytes) s = .next { s with part := { s.part with
      port.ports := modifyAt s.part.port.ports i fun q =>
        { q with framer := { mode := .sync, held := [] }, requestOverrun := true } } })
    ∧ (q.outstanding < 16 → disabled → refused .portDisabled)
    ∧ (q.outstanding < 16 → ¬ disabled → parseRequest code.toNat body = none → refused .badField)
    ∧ (∀ r, q.outstanding < 16 → ¬ disabled → parseRequest code.toNat body = some r →
      (q.settings.caps.allow code.toNat = false → refused .notPermitted)
      ∧ (q.settings.caps.allow code.toNat = true → exec (.requestArrival i bytes) s = .next { s with part := { s.part with
          engine.arrivals := s.part.engine.arrivals + 1
          port.ports := modifyAt s.part.port.ports i fun q => { q with
            framer := { mode := .sync, held := [] }
            outstanding := q.outstanding + 1
            requests := q.requests ++ [{ tag := tag.toNat, arrival := s.part.engine.arrivals, request := r }] } } }))

/-! ### The performance of requests (03, 05, 07, 08, 10, 11) -/

/-- ENROLL, RELABEL, RETIRE and FORCE_RETIRE up to the directory turn (R146, R156, R153, R132, R141): the checks in their
order, then the turn is asked for: behind its holder, or begun with the first read of the entries to change; and the first
carrier or alias of a consignor, whose entries need no read (R97), its leaf block written before its branch block, which is the
model's choice (log 21), as is which read is the first (log 75). A new key that was unresolved when a RANGE_IN_USE check over it
ended has its exempt check made afresh (R108, log 42). -/
def Obligations.DirectoryRequestsAskForTheTurn : Prop :=
  ∀ (s : State) (c : Nat) (x : Context), s.part.Performs c x →
    let p := s.part
    let turn := fun (u : Update) => { p with engine.turn := p.engine.turn ++ [u] }
    let asks := fun (i : Instr) =>
      (∀ u us, p.engine.turn = u :: us → u.begun = true →
        GoesOn i s c (turn { owner := .request c }) fun y => y.stage = .performed)
    let begins := fun (i : Instr) (keys : List Key) =>
      (∀ r rs, p.engine.turn = [] → keys.flatMap p.keyReads = r :: rs →
        GoesOn i s c (turn { owner := .request c, reads := r :: rs, begun := true }) (fun y => y.stage = .performed)
        ∧ ∃ t, exec i s = .next t ∧ t.part.asked .update r)
    let y := p.rechecked x
    ((x.recheck = false → y = x)
      ∧ ∀ k, insertsKey x.request = some k → x.recheck = true → ∀ e ∈ x.keys,
          (∀ n barred, e.key = k → exemptOutcome p.engine.exempt k = some (barred, n) →
            (⟨k, .exempt barred n⟩ : CtxKey) ∈ y.keys)
          ∧ (e.key ≠ k ∨ exemptOutcome p.engine.exempt k = none → e ∈ y.keys))
    ∧ (∀ k cls exposure bakes, x.request = .enroll k cls exposure bakes →
      let inRange := cls ≤ 7 ∧ exposure.getD 0 ≤ 1048575 ∧ bakes.getD 0 ≤ 15
      let allowed := inRange ∧ (∀ b n, y.resolutionOf k ≠ .exempt b n) ∧ p.permits x.port k.consignor = true
      (¬ inRange → Answers (.enroll c) s c x p .badField [])
      ∧ (∀ b n, inRange → y.resolutionOf k = .exempt b n → Answers (.enroll c) s c x p .keyExempt [])
      ∧ (inRange → (∀ b n, y.resolutionOf k ≠ .exempt b n) → p.permits x.port k.consignor = false →
          Answers (.enroll c) s c x p .notPermitted [])
      ∧ (allowed → y.resolutionOf k = .recordFault → Answers (.enroll c) s c x p .recordFault [])
      ∧ (∀ i slot n form, allowed → y.resolutionOf k = .entry i slot n form → Answers (.enroll c) s c x p .exists_ [])
      ∧ (allowed → y.resolutionOf k = .notFound → asks (.enroll c) ∧ begins (.enroll c) [k]
        ∧ (p.engine.turn = [] → (p.rootAt k.consignor.toNat).branch = none →
          (p.engine.slotFree.pop = none → Answers (.enroll c) s c x p .noSlot [])
          ∧ (p.engine.slotFree.pop ≠ none → p.engine.blockFree.size < 2 → Answers (.enroll c) s c x p .noTable [])
          ∧ ∀ slot free b l blocks rest, p.engine.slotFree.pop = some (slot, free) →
            p.engine.blockFree.pop = some (b, blocks) → blocks.pop = some (l, rest) → 2 ≤ p.engine.blockFree.size →
            p.roomToWrite 4 = true → p.roomToIssue = true →
            let root := p.rootAt k.consignor.toNat
            let r : CarrierRecord := { primary := k, enrolled := p.minuteNow }
            let w := fun (b : WriteBody) => (⟨some c, b⟩ : QWrite)
            ∃ t, exec (.enroll c) s = .next t ∧ t.pending = s.pending ∧ t.part.port = p.port
              ∧ t.part.slotAt slot = .live ∧ t.part.engine.slotFree = free
              ∧ t.part.path.cache = cacheAfter p.path.cache slot r
              ∧ t.part.books = (({ p with
                  engine.blockFree := rest
                  engine.roots := tset p.engine.roots k.consignor.toNat { root with branch := some b, live := 1 } {}
                  path.queue := p.path.queue ++ [w (.block l (.leaf [(k.serial.toNat, .primary slot)])),
                    w (.block b (.branch [(k.lot.toNat, { leaf := some l, live := 1 })])),
                    w (.root k.consignor.toNat ⟨some b, root.hold⟩), w (.record slot ⟨r, checkWordOf slot r⟩)] } : Part
                  ).withCommand c (.create slot k cls (exposure.getD 0) (bakes.getD 0))).books)))
    ∧ (∀ old new station, x.request = .relabel old new station →
      let exempt := (y.resolutionOf old).isExempt = true ∨ (y.resolutionOf new).isExempt = true
      (exempt → Answers (.relabel c) s c x p .keyExempt [])
      ∧ (∀ st, ¬ exempt → p.carrierOf y old = .error st → Answers (.relabel c) s c x p st [])
      ∧ (∀ e, ¬ exempt → p.carrierOf y old = .ok e →
        let permitted := p.permits x.port e.record.primary.consignor = true ∧ p.permits x.port new.consignor = true
        let held := p.heldByOther x.port station e.slot = true
        (¬ permitted → Answers (.relabel c) s c x p .notPermitted [])
        ∧ (permitted → held → Answers (.relabel c) s c x p .heldElsewhere [])
        ∧ (permitted → ¬ held → 2 ≤ e.record.aliases.length → Answers (.relabel c) s c x p .aliasLimit [])
        ∧ (permitted → ¬ held → e.record.aliases.length < 2 → asks (.relabel c) ∧ begins (.relabel c) [new]
          ∧ (p.engine.turn = [] → (p.rootAt new.consignor.toNat).branch = none →
            (p.engine.blockFree.size < 2 → Answers (.relabel c) s c x p .noTable [])
            ∧ ∀ i n form b l blocks rest, x.keys.head? = some ⟨old, .entry i e.slot n form⟩ → (∀ k ∈ x.keys.drop 1,
                ∀ i m n form, k.res ≠ .entry i m n form) → x.recheck = false → p.engine.blockFree.pop = some (b, blocks) →
              blocks.pop = some (l, rest) → 2 ≤ p.engine.blockFree.size → p.roomToWrite 4 = true →
              let root := p.rootAt new.consignor.toNat
              let r := { e.record with aliases := e.record.aliases ++ [new] }
              let w := fun (b : WriteBody) => (⟨some c, b⟩ : QWrite)
              Answers (.relabel c) s c x { p with
                engine.blockFree := rest
                engine.roots := tset p.engine.roots new.consignor.toNat { root with branch := some b, live := 1 } {}
                path.queue := p.path.queue ++ [w (.block l (.leaf [(new.serial.toNat, .aliasOf e.slot)])),
                  w (.block b (.branch [(new.lot.toNat, { leaf := some l, live := 1 })])),
                  w (.root new.consignor.toNat ⟨some b, root.hold⟩), w (.record e.slot ⟨r, checkWordOf e.slot r⟩)] } .ok
                (fKey e.record.primary :: fList (fun k => [fKey k]) r.aliases)
              ∧ (p.unfaulted x = true → Caches (.relabel c) s e.slot r)))))
    ∧ (∀ k reason station, x.request = .retire k reason station →
      (∀ st, p.carrierOf x k = .error st → Answers (.retire c) s c x p st [])
      ∧ (∀ e, p.carrierOf x k = .ok e →
        let permitted := p.permits x.port e.record.primary.consignor = true
        let held := p.heldByOther x.port station e.slot = true
        (¬ permitted → Answers (.retire c) s c x p .notPermitted [])
        ∧ (permitted → held → Answers (.retire c) s c x p .heldElsewhere [])
        ∧ (permitted → ¬ held → asks (.retire c)
          ∧ ∀ i n form, x.keys = [⟨k, .entry i e.slot n form⟩] → begins (.retire c) (e.record.primary :: e.record.aliases))))
    ∧ (∀ position slot, x.request = .forceRetire position slot →
      let inRange := position ≤ 15 ∧ slot < 65536
      (¬ inRange → Answers (.forceRetire c) s c x p .badField [])
      ∧ (inRange → (∀ f, p.engine.faults[position]? = some f → f.slot ≠ slot) →
          Answers (.forceRetire c) s c x p .notFound [])
      ∧ (∀ f, inRange → p.engine.faults[position]? = some f → f.slot = slot → asks (.forceRetire c)
          ∧ ∀ g, p.engine.faults.find? (fun g => g.slot == slot) = some g → begins (.forceRetire c) [g.key]))

/-- LOOKUP, VERIFY and CHECKOUT (R147, R148, R161, R107, R110): answered by the key's resolution, or by the holder, or READ of
the account is issued with the hold and the holder as they stand at performance. What a key's resolution gives (R104, R107): a
carrier's cache entry, KEY_EXEMPT, NOT_FOUND or RECORD_FAULT. The effective hold (R110): the first set of the consignor, lot,
bag and carrier hold, with its reason. The checkout of a carrier: the entry in use that names its slot (R159). The layout of
the optional fields (log 16), the numbering of GO and NO_GO and of the hold levels (log 17), the four fields of a CHECKOUT by
the holder (log 40) and the watch flag's range (log 44) are the model's choice. -/
def Obligations.ReadingRequestsReadTheAccount : Prop :=
  ∀ (s : State) (c : Nat) (x : Context), s.part.Performs c x →
    let p := s.part
    let reads := fun (i : Instr) (e : CacheEntry) => p.roomToIssue = true →
      GoesOn i s c (p.withCommand c (.read (match e.record.link with
        | some b => 65536 + b
        | none => e.slot))) fun y => y.stage = .awaitingTally ∧ y.outstanding = 1 ∧ y.holdRead = p.holdOf e
          ∧ y.holderRead = (p.checkoutOf e.slot).map (·.2)
    (∀ (y : Context) (k : Key), ∀ e, y.keys.find? (fun e => e.key == k) = some e →
      (∀ barred n, e.res = .exempt barred n → p.carrierOf y k = .error .keyExempt)
      ∧ (e.res = .notFound → p.carrierOf y k = .error .notFound)
      ∧ (e.res = .recordFault → p.carrierOf y k = .error .recordFault)
      ∧ ∀ i slot n form entry, e.res = .entry i slot n form → tfind p.path.cache i = some entry → p.carrierOf y k = .ok entry)
    ∧ (∀ e : CacheEntry,
      let bagHold := fun (h : Option Nat) => (e.record.link = none ∧ h = none) ∨ ∃ b, e.record.link = some b
        ∧ ((∃ ms m, p.bagAt b = .live ms h m) ∨ (∃ m, p.bagAt b = .closing h m) ∨ (p.bagAt b = .free ∧ h = none))
      (∀ r, e.conHold = some r → p.holdOf e = some (.consignor, r))
      ∧ (∀ r, e.conHold = none → e.lotHold = some r → p.holdOf e = some (.lot, r))
      ∧ (∀ r, e.conHold = none → e.lotHold = none → bagHold (some r) → p.holdOf e = some (.bag, r))
      ∧ (e.conHold = none → e.lotHold = none → bagHold none → p.holdOf e = e.record.hold.map fun r => (.carrier, r)))
    ∧ (effectiveBody none = [⟨1, 0⟩] ∧ holderBody none = [⟨1, 0⟩]
      ∧ (∀ level r, effectiveBody (some (level, r)) = [⟨1, 1⟩, ⟨1, match level with
          | .consignor => 0
          | .lot => 1
          | .bag => 2
          | .carrier => 3⟩, ⟨1, r⟩])
      ∧ ∀ h : Checkout, holderBody (some h) = [⟨1, 1⟩, ⟨1, h.port⟩, ⟨1, h.station⟩, ⟨4, h.since⟩])
    ∧ (∀ slot, (∀ i co, p.checkoutOf slot = some (i, co) → (i, co) ∈ p.engine.checkouts ∧ co.slot = slot)
      ∧ (p.checkoutOf slot = none ↔ ∀ e ∈ p.engine.checkouts, e.2.slot ≠ slot))
    ∧ (∀ k, x.request = .lookup k →
      (∀ barred n, x.resolutionOf k = .exempt barred n →
        Answers (.lookup c) s c x p .ok [⟨1, 1⟩, fFlag barred, ⟨1, n⟩])
      ∧ ((∀ barred n, x.resolutionOf k ≠ .exempt barred n) →
        (∀ st, p.carrierOf x k = .error st → Answers (.lookup c) s c x p st [])
        ∧ ∀ e, p.carrierOf x k = .ok e → reads (.lookup c) e))
    ∧ (∀ k station need, x.request = .verify k station need →
      let short := fun (verdict reason : Nat) =>
        Answers (.verify c) s c x p .ok [⟨1, verdict⟩, ⟨1, reason⟩, ⟨1, 0⟩, ⟨1, 0⟩, ⟨1, 0⟩, ⟨1, 0⟩]
      (1048575 < need → Answers (.verify c) s c x p .badField [])
      ∧ (need ≤ 1048575 →
        (∀ n, x.resolutionOf k = .exempt false n → short 0 1)
        ∧ (∀ n, x.resolutionOf k = .exempt true n → short 1 2)
        ∧ (x.resolutionOf k = .notFound → short 1 3)
        ∧ (x.resolutionOf k = .recordFault → short 1 4)
        ∧ ∀ e, p.carrierOf x k = .ok e → reads (.verify c) e))
    ∧ (∀ k station watch, x.request = .checkout k station watch →
      let inRange := station ≤ 255 ∧ watch ≤ 1
      (¬ inRange → Answers (.checkout c) s c x p .badField [])
      ∧ (∀ st, inRange → p.carrierOf x k = .error st → Answers (.checkout c) s c x p st [])
      ∧ (∀ e, inRange → p.carrierOf x k = .ok e →
        let permitted := p.permits x.port e.record.primary.consignor = true
        (¬ permitted → Answers (.checkout c) s c x p .notPermitted [])
        ∧ (permitted → p.checkoutOf e.slot = none → p.holdOf e ≠ none → Answers (.checkout c) s c x p .onHold [])
        ∧ (permitted → p.checkoutOf e.slot = none → p.holdOf e = none → reads (.checkout c) e)
        ∧ (∀ i co, permitted → p.checkoutOf e.slot = some (i, co) →
          let own := co.port = x.port ∧ co.station = station
          let r := { e.record with watch := insertSorted x.port e.record.watch }
          (own → Answers (.checkout c) s c x p .ok
            [fKey co.primary, ⟨2, i⟩, ⟨1, co.station⟩, ⟨4, co.since⟩])
          ∧ (¬ own → watch = 0 ∨ x.port ∈ e.record.watch →
            Answers (.checkout c) s c x p .heldElsewhere [⟨1, co.port⟩, ⟨1, co.station⟩, ⟨4, co.since⟩])
          ∧ (¬ own → watch = 1 → x.port ∉ e.record.watch → p.roomToWrite 1 = true →
            Answers (.checkout c) s c x (p.pushWrite (some c) (.record e.slot ⟨r, checkWordOf e.slot r⟩)) .heldElsewhere
              [⟨1, co.port⟩, ⟨1, co.station⟩, ⟨4, co.since⟩]
            ∧ (p.unfaulted x = true → Caches (.checkout c) s e.slot r)))))

/-- OPEN of one and of several keys, MOVE and SEAL (R150, R62, R151, R152, R65, R67, R109, R111, R149): the checks in their
order, then the tally command; a port is permitted that is port 0 or that the root entry of the primary key's consignor names,
and a request comes from the holder when it has the holder's port and carries the holder's station tag; a multi-key OPEN takes
the bag number at the head of the free bag list, and a refusal of one of its keys names the key's position, counted from 0,
which is the model's choice (log 16). -/
def Obligations.MovingRequestsCheckThenCommand : Prop :=
  ∀ (s : State) (c : Nat) (x : Context), s.part.Performs c x →
    let p := s.part
    let issues := fun (i : Instr) (q : Part) (op : TallyOp) (known : Context → Prop) => p.roomToIssue = true →
      GoesOn i s c (q.withCommand c op) fun y => y.stage = .awaitingTally ∧ y.outstanding = 1 ∧ known y
    let permitted := fun (e : CacheEntry) => p.permits x.port e.record.primary.consignor = true
    (∀ (port : Nat) (con : BitVec 8), p.permits port con = true ↔ port = 0 ∨ port ∈ (p.rootAt con.toNat).ports)
    ∧ (∀ port station slot, p.heldByOther port station slot = true ↔
        ∃ i co, p.checkoutOf slot = some (i, co) ∧ ¬ (co.port = port ∧ station = some co.station))
    ∧ (∀ z, x.request = .openKeys z [] → Answers (.openOne c) s c x p .badField [])
    ∧ (∀ z k, x.request = .openKeys z [k] →
      (32 ≤ z → Answers (.openOne c) s c x p .badField [])
      ∧ (∀ st, z < 32 → p.carrierOf x k = .error st → Answers (.openOne c) s c x p st [])
      ∧ (∀ e, z < 32 → p.carrierOf x k = .ok e →
        (¬ permitted e → Answers (.openOne c) s c x p .notPermitted [])
        ∧ (permitted e → e.record.checkout ≠ none → Answers (.openOne c) s c x p .heldElsewhere [])
        ∧ (permitted e → e.record.checkout = none → p.holdOf e ≠ none → Answers (.openOne c) s c x p .onHold [])
        ∧ (permitted e → e.record.checkout = none → p.holdOf e = none →
            issues (.openOne c) p (.arm e.slot z) fun _ => True)))
    ∧ (∀ z k₁ k₂ ks, x.request = .openKeys z (k₁ :: k₂ :: ks) →
      let keys := k₁ :: k₂ :: ks
      let slots := keys.filterMap fun k => (p.entryOf x k).map CacheEntry.slot
      (32 ≤ z → Answers (.multiKeyOpen c) s c x p .badField [])
      ∧ (∀ i k st, z < 32 → keys[i]? = some k → p.memberRefusal x k = some st →
          (∀ j k', j < i → keys[j]? = some k' → p.memberRefusal x k' = none) →
          Answers (.multiKeyOpen c) s c x p st [⟨1, i⟩])
      ∧ (z < 32 → (∀ k ∈ keys, p.memberRefusal x k = none) →
        (¬ slots.Nodup → Answers (.multiKeyOpen c) s c x p .badField [])
        ∧ (slots.Nodup → p.engine.bagFree.pop = none → Answers (.multiKeyOpen c) s c x p .noBag [])
        ∧ (∀ b rest, slots.Nodup → p.engine.bagFree.pop = some (b, rest) →
          issues (.multiKeyOpen c) { p with engine.bagFree := rest } (.join (65536 + b) slots z) fun y =>
            y.bagTaken = some b)))
    ∧ (∀ k, (∀ e, p.carrierOf x k = .ok e → p.memberRefusal x k = if ¬ permitted e then some .notPermitted
          else if e.record.checkout ≠ none then some .heldElsewhere
          else if p.holdOf e ≠ none then some .onHold else none)
        ∧ ∀ st, p.carrierOf x k = .error st → p.memberRefusal x k = some st)
    ∧ (∀ k z station, x.request = .move k z station →
      (32 ≤ z → Answers (.move c) s c x p .badField [])
      ∧ (∀ st, z < 32 → p.carrierOf x k = .error st → Answers (.move c) s c x p st [])
      ∧ (∀ e, z < 32 → p.carrierOf x k = .ok e →
        let held := p.heldByOther x.port station e.slot = true
        let onHold := (p.zoneAt z).kind = .floor ∧ p.holdOf e ≠ none
        (¬ permitted e → Answers (.move c) s c x p .notPermitted [])
        ∧ (permitted e → held → Answers (.move c) s c x p .heldElsewhere [])
        ∧ (permitted e → ¬ held → onHold → Answers (.move c) s c x p .onHold [])
        ∧ (permitted e → ¬ held → ¬ onHold →
            (e.record.link = none → issues (.move c) p (.move e.slot z) fun _ => True)
            ∧ ∀ b, e.record.link = some b → issues (.move c) p (.split (65536 + b) e.slot (some z)) fun _ => True)))
    ∧ (∀ k, x.request = .seal k →
      (∀ st, p.carrierOf x k = .error st → Answers (.seal c) s c x p st [])
      ∧ (∀ e, p.carrierOf x k = .ok e →
        (¬ permitted e → Answers (.seal c) s c x p .notPermitted [])
        ∧ (permitted e → e.record.checkout ≠ none → Answers (.seal c) s c x p .wrongState [])
        ∧ (permitted e → e.record.checkout = none →
            (e.record.link = none → issues (.seal c) p (.seal e.slot) fun _ => True)
            ∧ ∀ b, e.record.link = some b → issues (.seal c) p (.split (65536 + b) e.slot none) fun _ => True)))

/-- MOVE_GROUP, LIST_BAG, LIST_DUE, LIST_CHECKOUTS and RELEASE (R70, R73, R57, R169, R163): the checks in their order; the
members checked out are parted before the bag moves; a release gives its notices, frees the entry, writes the record and unpins
the cache entry (R120). The number of entries collected and the list's count byte of LIST_CHECKOUTS (log 16), and the answer of
a MOVE_GROUP to the bag's own zone (log 39), are the model's choice. -/
def Obligations.GroupsListsAndReleases : Prop :=
  ∀ (s : State) (c : Nat) (x : Context), s.part.Performs c x →
    let p := s.part
    let issues := fun (i : Instr) (op : TallyOp) (known : Context → Prop) => p.roomToIssue = true →
      GoesOn i s c (p.withCommand c op) fun y => y.outstanding = 1 ∧ known y
    (∀ b z, x.request = .moveGroup b z →
      let inRange := b < 4096 ∧ z < 32
      (¬ inRange → Answers (.moveGroup c) s c x p .badField [])
      ∧ (inRange → (∀ ms h m, p.bagAt b ≠ .live ms h m) → Answers (.moveGroup c) s c x p .notFound [])
      ∧ (∀ ms hold created st, inRange → p.bagAt b = .live ms hold created →
          p.memberEntries (p.beginPerform c x).2 ms = .error st → Answers (.moveGroup c) s c x p st [])
      ∧ (∀ ms hold created es, inRange → p.bagAt b = .live ms hold created →
          p.memberEntries (p.beginPerform c x).2 ms = .ok es →
        let bag := 65536 + b
        let t := p.tallyAt bag
        let minutes := p.exposure t / 16
        let exposed : Field := ⟨4, if minutes ≤ 4294967295 then minutes else Config.unstatedExposure (p.exposure t)⟩
        let out := es.filter fun e => e.record.checkout.isSome
        let stay := es.filter fun e => e.record.checkout.isNone
        let permitted := ∀ e ∈ es, p.permits x.port e.record.primary.consignor = true
        let here := ∃ r, p.tallyAt bag = .resident r ∧ r.zone = z
        let onHold := (p.zoneAt z).kind = .floor ∧ (hold ≠ none ∨ ∃ e ∈ stay, p.holdOf e ≠ none)
        (¬ permitted → Answers (.moveGroup c) s c x p .notPermitted [])
        ∧ (permitted → here → Answers (.moveGroup c) s c x p .ok
            ([⟨2, b⟩, ⟨1, z⟩, ⟨2, 0⟩, ⟨1, 0⟩, p.stateField t, exposed, fRemaining (p.remaining t), fFlag t.account.warned,
              fFlag t.account.expiredAt.isSome, fFlag t.account.exhausted] ++ fOptMinute t.account.expiredAt
              ++ [⟨1, t.account.bakeCount⟩]))
        ∧ (permitted → ¬ here → stay = [] → Answers (.moveGroup c) s c x p .wrongState [])
        ∧ (permitted → ¬ here → stay ≠ [] → onHold → Answers (.moveGroup c) s c x p .onHold [])
        ∧ (permitted → ¬ here → stay ≠ [] → ¬ onHold →
            (out = [] → issues (.moveGroup c) (.move bag z) fun y => y.toIssue = [])
            ∧ ∀ e rest, out = e :: rest → issues (.moveGroup c) (.split bag e.slot none) fun y =>
              y.toIssue = rest.map (fun e => .split bag e.slot none) ++ [.move bag z])))
    ∧ (∀ b, x.request = .listBag b →
      (4096 ≤ b → Answers (.listBag c) s c x p .badField [])
      ∧ (b < 4096 → (∀ ms h m, p.bagAt b ≠ .live ms h m) → Answers (.listBag c) s c x p .notFound [])
      ∧ (∀ ms hold created, b < 4096 → p.bagAt b = .live ms hold created →
          issues (.listBag c) (.read (65536 + b)) fun y => y.left = ms.map (fun m => m.2)
            ∧ y.head = [⟨2, b⟩, ⟨4, created⟩] ++ fOpt 1 hold ++ [⟨2, ms.length⟩]))
    ∧ (∀ z cls skip want, x.request = .listDue z cls skip want →
      let inRange := z < 32 ∧ cls < 8 ∧ skip ≤ 65535 ∧ 1 ≤ want ∧ want ≤ 32
      (¬ inRange → Answers (.listDue c) s c x p .badField [])
      ∧ (inRange → issues (.listDue c) (.listDue z cls skip want) fun y => y.toIssue = []))
    ∧ (∀ port station skip want, x.request = .listCheckouts port station skip want →
      let inRange := (∀ i, port = some i → i ≤ 3) ∧ (∀ t, station = some t → t ≤ 255) ∧ skip ≤ 2047 ∧ 1 ≤ want ∧ want ≤ 32
      let found := p.engine.checkouts.filter fun e =>
        (port.isNone || port == some e.2.port) && (station.isNone || station == some e.2.station)
      let listed := (found.drop skip).take want
      (¬ inRange → Answers (.listCheckouts c) s c x p .badField [])
      ∧ (inRange → Answers (.listCheckouts c) s c x p .ok ([⟨2, found.length⟩, ⟨2, listed.length⟩, ⟨1, listed.length⟩]
          ++ listed.flatMap fun e => [⟨2, e.1⟩, fKey e.2.primary, ⟨2, e.2.slot⟩, ⟨1, e.2.port⟩, ⟨1, e.2.station⟩,
            ⟨4, e.2.since⟩])))
    ∧ (∀ k station, x.request = .release k station →
      (255 < station → Answers (.release c) s c x p .badField [])
      ∧ (∀ st, station ≤ 255 → p.carrierOf x k = .error st → Answers (.release c) s c x p st [])
      ∧ (∀ e, station ≤ 255 → p.carrierOf x k = .ok e →
        (p.checkoutOf e.slot = none → Answers (.release c) s c x p .wrongState [])
        ∧ (∀ index co, p.checkoutOf e.slot = some (index, co) →
          let may := x.port = 0 ∨ (co.port = x.port ∧ co.station = station)
          let r := { e.record with checkout := none, watch := [] }
          (¬ may → Answers (.release c) s c x p .notHeld [])
          ∧ (may → p.roomToWrite 1 = true → Answers (.release c) s c x
              (({ p.giveReleased e.record .release (some co) none with
                  engine.checkouts := tdel p.engine.checkouts index } : Part).pushWrite (some c)
                (.record e.slot ⟨r, checkWordOf e.slot r⟩)) .ok
              [fKey e.record.primary, ⟨1, co.port⟩, ⟨1, co.station⟩, ⟨4, co.since⟩, ⟨2, e.record.watch.length⟩]
            ∧ (p.unfaulted x = true → Caches (.release c) s e.slot r)))))

/-- HOLD and UNHOLD at the four levels (R112 to R114): an UNHOLD with another reason is refused, a record with its cache entry
or a bag changes in the act, a root entry changes and its flush begins, with the contexts READY on entries it will remove
probing again, a branch entry is first read. That a lot above 4,095 is answered BAD_FIELD (log 44), and that the answers lay a
hold with its reason out as a set or clear byte with the reason after it (log 16), is the model's choice. -/
def Obligations.HoldsChangeTheirTarget : Prop :=
  ∀ (s : State) (c : Nat) (x : Context) (un : Bool) (reason : Nat), s.part.Performs c x →
    let p := s.part
    let request := fun (t : HoldTarget) => x.request = if un then .unhold t reason else .hold t reason
    let after : Option Nat := if un then none else some reason
    let other := fun (before : Option Nat) => un = true ∧ ∃ r, before = some r ∧ r ≠ reason
    let body := fun (target : Body) (before : Option Nat) => target ++ fOpt 1 after ++ fOpt 1 before
    (∀ k, request (.carrier k) →
      let i : Instr := if un then .unholdCarrier c else .holdCarrier c
      (∀ st, p.carrierOf x k = .error st → Answers i s c x p st [])
      ∧ (∀ e, p.carrierOf x k = .ok e →
        let r := { e.record with hold := after }
        (other e.record.hold → Answers i s c x p .wrongState [])
        ∧ (un = true → e.record.hold = none → Answers i s c x p .ok (body [⟨1, 3⟩, fKey k] none))
        ∧ (¬ other e.record.hold → un = false ∨ e.record.hold ≠ none → p.roomToWrite 1 = true →
            Answers i s c x (p.pushWrite (some c) (.record e.slot ⟨r, checkWordOf e.slot r⟩)) .ok
              (body [⟨1, 3⟩, fKey k] e.record.hold)
            ∧ (p.unfaulted x = true → Caches i s e.slot r))))
    ∧ (∀ b, request (.bag b) →
      let i : Instr := if un then .unholdBag c else .holdBag c
      (4096 ≤ b → Answers i s c x p .badField [])
      ∧ (b < 4096 → (∀ ms h m, p.bagAt b ≠ .live ms h m) → Answers i s c x p .notFound [])
      ∧ (∀ ms hold created, b < 4096 → p.bagAt b = .live ms hold created →
        (other hold → Answers i s c x p .wrongState [])
        ∧ (un = true → hold = none → Answers i s c x p .ok (body [⟨1, 2⟩, ⟨2, b⟩] none))
        ∧ (¬ other hold → un = false ∨ hold ≠ none → p.roomToWrite 1 = true →
            Answers i s c x ({ p with
              engine.bags := tset p.engine.bags b (.live ms after created) .free
              path.queue := p.path.queue ++ [⟨some c, .bag b (.live ms after created)⟩] } : Part) .ok
              (body [⟨1, 2⟩, ⟨2, b⟩] hold))))
    ∧ (∀ con, request (.consignor con) →
      let i : Instr := if un then .unholdConsignor c else .holdConsignor c
      let root := p.rootAt con
      let epoch := if p.engine.epoch = 2 ^ 32 - 1 then 0 else p.engine.epoch + 1
      (255 < con → Answers i s c x p .badField [])
      ∧ (con ≤ 255 → root.branch = none → un = false → Answers i s c x p .notFound [])
      ∧ (con ≤ 255 → root.branch ≠ none ∨ un = true →
        (other root.hold → Answers i s c x p .wrongState [])
        ∧ (root.hold = after → Answers i s c x p .ok (body [⟨1, 0⟩, ⟨1, con⟩] root.hold))
        ∧ (¬ other root.hold → root.hold ≠ after → p.roomToWrite 1 = true →
          let f : Flush := { consignor := BitVec.ofNat 8 con, lot := none, epoch := epoch, nextSet := 0, ctx := c }
          GoesOn i s c ({ p with
            engine.roots := tset p.engine.roots con { root with hold := after } {}
            engine.epoch := epoch
            path.queue := p.path.queue ++ [⟨some c, .root con ⟨root.branch, after⟩⟩]
            path.flush := some f } : Part)
            (fun y => y.stage = .awaitingWrite ∧ y.reply = some ⟨.ok, body [⟨1, 0⟩, ⟨1, con⟩] root.hold⟩)
          ∧ Reprobes i s c f fun _ k => f.hits k.record.primary)))
    ∧ (∀ con lot, request (.lot con lot) →
      let i : Instr := if un then .unholdLot c else .holdLot c
      let inRange := con ≤ 255 ∧ lot ≤ 4095
      (¬ inRange → Answers i s c x p .badField [])
      ∧ (inRange → (p.rootAt con).branch = none → Answers i s c x ({ p with engine.holdRead := none } : Part) .notFound [])
      ∧ (∀ b, inRange → (p.rootAt con).branch = some b →
          GoesOn i s c ({ p with engine.holdRead := some c } : Part) (fun y => y.stage = .performed)
          ∧ ∃ t, exec i s = .next t ∧ t.part.asked .hold (.branch b lot)))

/-- CLASS_SET, BAND_SET, WEIGHT_SET, PORT_SET, CONSIGNOR_SET, ROUTE_SET and EXEMPT_SET (R187 to R190, R193 to R195): the
ranges, the setting taken, the configuration write and the answer. The pending flag in the answers of BAND_SET and WEIGHT_SET
(log 16), the selector of ROUTE_SET's destinations (log 17), the ranges of the enable and answer flags (log 44), the order in
which the RANGE_IN_USE check reads (log 53; `RangeCheckRefusesOrInstalls` says which entry is next), and the class, the range
number and the list form of the routing table in the answers (log 66) are the model's choice. -/
def Obligations.ConfigurationRequestsTakeAndWriteTheSetting : Prop :=
  ∀ (s : State) (c : Nat) (x : Context), s.part.Performs c x → s.part.roomToWrite 1 = true →
    let p := s.part
    let wrote := fun (q : Part) (w : SettingWrite) => { q with path.queue := q.path.queue ++ [⟨some c, .setting w⟩] }
    (∀ cls e, x.request = .classSet cls e →
      let inRange := cls ≤ 7 ∧ e.budget ≤ 1048575 ∧ e.warnMargin ≤ 65535 ∧ e.creditRatio ≤ 31 ∧ e.creditCap ≤ 65535
        ∧ 1 ≤ e.minBake ∧ e.minBake ≤ 2880 ∧ 1 ≤ e.bakeLimit ∧ e.bakeLimit ≤ 15
      (¬ inRange → Answers (.classSet c) s c x p .badField [])
      ∧ (inRange → p.tally.useCounts.getD cls 0 ≠ 0 → Answers (.classSet c) s c x p .classInUse [])
      ∧ (inRange → p.tally.useCounts.getD cls 0 = 0 →
        Answers (.classSet c) s c x (wrote { p with zone.classes := modifyAt p.zone.classes cls fun _ => e } (.cls cls e)) .ok
          [⟨1, cls⟩, ⟨4, e.budget⟩, ⟨4, e.warnMargin⟩, ⟨1, e.creditRatio⟩, ⟨4, e.creditCap⟩, ⟨2, e.minBake⟩,
            ⟨1, e.bakeLimit⟩]))
    ∧ (∀ band humidity temperature, x.request = .bandSet band humidity temperature →
      let inRange := band ≤ 6 ∧ humidity ≤ 1000 ∧ -400 ≤ temperature ∧ temperature ≤ 1250
      let l : BandLimits := { humidity := humidity, temperature := temperature }
      (¬ inRange → Answers (.bandSet c) s c x p .badField [])
      ∧ (inRange → Answers (.bandSet c) s c x
          (wrote { p with zone.pendBands := modifyAt p.zone.pendBands band fun _ => l } (.band band l)) .ok
          [⟨1, band⟩, ⟨2, humidity⟩, fTemp temperature, ⟨1, 1⟩]))
    ∧ (∀ band cls weight, x.request = .weightSet band cls weight →
      let inRange := band ≤ 7 ∧ cls ≤ 7 ∧ weight ≤ 63
      (¬ inRange → Answers (.weightSet c) s c x p .badField [])
      ∧ (inRange → Answers (.weightSet c) s c x (wrote { p with
            zone.pendWeights := modifyAt p.zone.pendWeights band fun row => modifyAt row cls fun _ => weight }
            (.weight band cls weight)) .ok [⟨1, band⟩, ⟨1, cls⟩, ⟨1, weight⟩, ⟨1, 1⟩]))
    ∧ (∀ i enable caps, x.request = .portSet i enable caps →
      let inRange := 1 ≤ i ∧ i ≤ 3 ∧ enable ≤ 1 ∧ caps ≤ 7
      let new : PortSettings := { enabled := enable == 1, caps := { station := caps.testBit 0, climate := caps.testBit 1
                                                                    quality := caps.testBit 2, supervise := false } }
      let ports := modifyAt p.port.ports i fun q =>
        { q with settings := new, notices := if q.settings.enabled = true ∧ new.enabled = false then [] else q.notices }
      (¬ inRange → Answers (.portSet c) s c x p .badField [])
      ∧ (inRange → Answers (.portSet c) s c x (wrote { p with port.ports := ports } (.port i new)) .ok
          [⟨1, i⟩, ⟨1, enable⟩, ⟨1, caps⟩, ⟨2, (p.portAt i).outstanding⟩]))
    ∧ (∀ con set, x.request = .consignorSet con set →
      let inRange := con ≤ 255 ∧ set.testBit 0 = false ∧ set ≤ 15
      let ports := [1, 2, 3].filter fun i => set.testBit i
      (¬ inRange → Answers (.consignorSet c) s c x p .badField [])
      ∧ (inRange → Answers (.consignorSet c) s c x (wrote { p with
            engine.roots := tset p.engine.roots con { p.rootAt con with ports := ports } {} } (.consignor con ports)) .ok
          [⟨1, con⟩, ⟨1, set⟩, fFlag (p.rootAt con).branch.isSome]))
    ∧ (∀ entries, x.request = .routeSet entries →
      let inRange := (∀ e ∈ entries, e.1 ∈ [1, 2, 4, 5, 6, 7, 8, 9] ∧ ∀ i, e.2 = some i → i ≤ 3)
        ∧ (entries.map (·.1)).Nodup
      (¬ inRange → Answers (.routeSet c) s c x p .badField [])
      ∧ (inRange → p.port.routing.length = 8 → ∃ table : List (Option Nat), table.length = 8
        ∧ (∀ (j code : Nat), ([1, 2, 4, 5, 6, 7, 8, 9] : List Nat)[j]? = some code →
            (∀ dest : Option Nat, (code, dest) ∈ entries → table[j]? = some dest)
            ∧ ((∀ dest : Option Nat, (code, dest) ∉ entries) → table[j]? = p.port.routing[j]?))
        ∧ Answers (.routeSet c) s c x (wrote { p with port.routing := table } (.routing table)) .ok
          (⟨1, 8⟩ :: (([1, 2, 4, 5, 6, 7, 8, 9] : List Nat).zip table).flatMap fun e => ⟨1, e.1⟩ :: (match e.2 with
            | some i => [⟨1, 0⟩, ⟨1, i⟩]
            | none => [⟨1, 1⟩]))))
    ∧ (∀ n enabled con lot mask answer, x.request = .exemptSet n enabled con lot mask answer →
      let inRange := n ≤ 3 ∧ enabled ≤ 1 ∧ con ≤ 255 ∧ lot ≤ 4095 ∧ mask ≤ 1048575 ∧ answer ≤ 1
      let r : ExemptRange := { enabled := enabled == 1, consignor := BitVec.ofNat 8 con, lot := BitVec.ofNat 12 lot
                               mask := BitVec.ofNat 20 mask, barred := answer == 1 }
      (¬ inRange → Answers (.exemptSet c) s c x p .badField [])
      ∧ (inRange → enabled = 0 → Answers (.exemptSet c) s c x
          (wrote { p with engine.exempt := modifyAt p.engine.exempt n fun _ => r } (.exempt n r)) .ok
          [⟨1, n⟩, ⟨1, 0⟩, ⟨1, con⟩, ⟨2, lot⟩, ⟨3, mask⟩, ⟨1, answer⟩])
      ∧ (inRange → enabled = 1 →
          let check : RangeCheck := { ctx := c, range := n, proposed := r }
          let covered := fun (e : Nat × Context) =>
            e.2.active = true ∧ ∃ k, insertsKey e.2.request = some k ∧ r.coversLot k.consignor k.lot = true
          ((∃ e ∈ p.engine.contexts, e.1 ≠ c ∧ covered e) →
            GoesOn (.exemptSet c) s c { p with engine.range := some check } fun y => y.stage = .performed)
          ∧ ((∀ e ∈ p.engine.contexts, ¬ covered e) →
            (∀ con' l b, p.nextRange r 0 0 = some (con', l, b) →
              let next : RangeCheck := { check with begun := true, consignor := con', lot := l }
              GoesOn (.exemptSet c) s c { p with engine.range := some next } (fun y => y.stage = .performed)
              ∧ ∃ t, exec (.exemptSet c) s = .next t ∧ t.part.asked .range (.branch b l))
            ∧ (p.nextRange r 0 0 = none → Answers (.exemptSet c) s c x
                (wrote { p with engine.exempt := modifyAt p.engine.exempt n fun _ => r, engine.range := none } (.exempt n r))
                .ok [⟨1, n⟩, ⟨1, 1⟩, ⟨1, con⟩, ⟨2, lot⟩, ⟨3, mask⟩, ⟨1, answer⟩]))))

/-- TIME_SET (R196, R207): in AWAIT_TIME the clock is set and the gap charge begins, at fallback weights for the minutes since
the last advance, with its advance written behind the writes that waited, as they stood before it (R23; log 31); while the clock
runs, a jump above 60 minutes is refused. That the refusal carries the fields of the answer is the model's choice (log 29). -/
def Obligations.TimeSetMovesTheClockOrBeginsTheGapCharge : Prop :=
  ∀ (s : State) (c : Nat) (x : Context) (m : Nat), s.part.Performs c x → x.request = .timeSet m →
    let p := s.part
    let set : Part := { p with zone.wallMinute := some m, zone.timeBase := 0 }
    let body := fOptMinute p.zone.wallMinute
    (p.engine.mode ≠ .awaitTime → p.zone.wallMinute = none → Answers (.timeSet c) s c x set .ok (body ++ [⟨4, m⟩]))
    ∧ (∀ w, p.engine.mode ≠ .awaitTime → p.zone.wallMinute = some w →
        (m ≤ w + 60 → w ≤ m + 60 → Answers (.timeSet c) s c x set .ok (body ++ [⟨4, m⟩]))
        ∧ (w + 60 < m ∨ m + 60 < w → Answers (.timeSet c) s c x p .timeJump (body ++ [⟨4, w⟩])))
    ∧ (p.engine.mode = .awaitTime →
        let gap := match p.zone.lastAdvance with
          | none => 0
          | some last => m - last
        let weights := p.zone.pendWeights
        let zones := p.zone.zones.mapIdx fun i z =>
          let fallback := z.pendFallback
          { z with
            fallback := fallback
            staleLimit := z.pendStaleLimit
            capacity := if z.pendCapacity = 0 ∨ p.tally.occupancy.getD i 0 ≤ z.pendCapacity then z.pendCapacity else z.capacity
            metersComputed := z.metersComputed.mapIdx fun cls v =>
              min (v + gap * (weights.getD fallback []).getD cls 0) (2 ^ 40 - 1) }
        let waiting := p.zone.writes.map fun w => match w with
          | .zone z none => .zone z (some (p.zoneRecord z))
          | w => w
        ∃ area q, area.last = some m
          ∧ (∀ z, z < p.zone.zones.length →
              let r := area.zones.getD z {}
              r.meters = (zones.getD z {}).metersComputed ∧ r.dry = (p.zoneAt z).dryComputed ∧ r.bake = (p.zoneAt z).bake
                ∧ r.tripLatch = (p.zoneAt z).tripLatch
                ∧ ∀ n k b, (p.zoneAt z).bake = .running n k → p.zone.timers.getD n none = some b → r.remaining = b.remaining)
          ∧ area.zones.length = p.zone.zones.length
          ∧ q = ({ set with
              engine.mode := .rebuilding .chargeGap
              zone := { set.zone with
                bands := p.zone.pendBands, weights := weights, zones := zones
                advance := some { minute := m, gap := true, issued := true }
                writes := waiting ++ [.advance area true] } } : Part)
          ∧ Answers (.timeSet c) s c x q .ok (body ++ [⟨4, m⟩]))

/-- STATUS, FAULT_CLEAR, RESTART and FORMAT (R197, R199, R208, R209): every group STATUS carries, those from the slots on
present from AWAIT_TIME; the mode passes back to RUNNING when the fault list has room; a start begins in the act that queues
its answer. The presence bytes of STATUS (log 16), its port, zone and timer entries without a count byte (log 69), the slot
table that lists no FREE slot (log 33), the fields that a refused FAULT_CLEAR carries (log 29), the optional last-advance minute of
STATUS (log 86) and the optional minute of a MODE_CHANGE (log 65) are the model's choice. -/
def Obligations.StatusFaultClearAndStarts : Prop :=
  ∀ (s : State) (c : Nat) (x : Context), s.part.Performs c x →
    let p := s.part
    let minute := fOptMinute p.zone.wallMinute
    let fields := fun (mode : Nat) => [⟨1, mode⟩, ⟨2, p.engine.faults.length⟩, ⟨4, p.engine.unlisted⟩]
    let rebuilt := p.engine.mode = .awaitTime ∨ p.engine.mode = .running ∨ p.engine.mode = .readOnly
    let always := [⟨1, p.engine.mode.code⟩] ++ (match p.engine.mode with
        | .rebuilding ph => [⟨1, 1⟩, ⟨1, ph.code⟩]
        | _ => [⟨1, 0⟩]) ++ minute ++ fOptMinute p.zone.lastAdvance ++ [⟨2, p.zone.owed⟩]
      ++ p.port.ports.flatMap (fun q => [fFlag q.settings.enabled, fCaps q.settings.caps, ⟨2, q.outstanding⟩,
        fFlag q.requestOverrun, fFlag q.noticeOverrun, ⟨1, q.noticeNumber⟩])
    let inState := fun (st : SlotState) => (p.engine.slots.filter fun e => e.2 == st).length
    let slots : Body := [⟨4, inState .live⟩, ⟨4, 65536 - p.engine.slots.length⟩, ⟨4, inState .retiring⟩,
      ⟨4, inState .faulted⟩, ⟨4, inState .withdrawn⟩]
    let directory : Body := [⟨2, p.engine.blockFree.size⟩, ⟨2, p.engine.bags.length⟩, ⟨4, p.engine.epoch⟩]
    let checkouts : Body := [⟨2, p.engine.checkouts.length⟩, fFlag p.engine.releaseAll.isSome]
    let faults : Body := [⟨2, p.engine.faults.length⟩, ⟨4, p.engine.unlisted⟩, ⟨1, p.engine.faults.length⟩]
      ++ p.engine.faults.zipIdx.flatMap fun e => [⟨1, e.2⟩, ⟨2, e.1.slot⟩, fKey e.1.key] ++ fOptMinute e.1.minute
    let zones : Body := p.zone.zones.zipIdx.flatMap fun e =>
      let z := e.1
      let tripped := z.tripLatch || (z.lineMode == .level && z.lineLevel)
      [⟨1, z.kind.code⟩, fFlag tripped, fFlag z.stale, ⟨1, if tripped || z.stale then z.fallback else z.presentBand⟩,
        ⟨4, p.tally.occupancy.getD e.2 0⟩, ⟨2, z.capacity⟩]
        ++ fOpt 2 (if z.pendCapacity = z.capacity then none else some z.pendCapacity) ++ [⟨1, z.bake.code⟩]
    let timers : Body := p.zone.timers.flatMap fun b => match b with
      | none => [⟨1, 0⟩]
      | some b => [⟨1, 1⟩, ⟨1, b.zone⟩, ⟨4, b.remaining⟩]
    (x.request = .status →
      (rebuilt → Answers (.status c) s c x p .ok
        (always ++ [slots, directory, checkouts, faults, zones, timers].flatMap fun g => ⟨1, 1⟩ :: g))
      ∧ (¬ rebuilt → Answers (.status c) s c x p .ok (always ++ [⟨1, 0⟩, ⟨1, 0⟩, ⟨1, 0⟩, ⟨1, 0⟩, ⟨1, 0⟩, ⟨1, 0⟩])))
    ∧ (x.request = .faultClear →
      (p.engine.mode = .readOnly → p.engine.faults.length < 16 →
        Answers (.faultClear c) s c x ({ p with
          engine.mode := .running
          port := p.port.withNotice .modeChange ([⟨1, 4⟩, ⟨1, 3⟩, ⟨1, 5⟩] ++ minute) } : Part) .ok (fields 3))
      ∧ (p.engine.mode = .readOnly → 16 ≤ p.engine.faults.length →
        Answers (.faultClear c) s c x p .faultsPending (fields 4))
      ∧ (p.engine.mode ≠ .readOnly → Answers (.faultClear c) s c x p .wrongState (fields p.engine.mode.code)))
    ∧ ∀ kind, (kind = .restart ∧ x.request = .restart) ∨ (kind = .format ∧ x.request = .format) →
      let i : Instr := if kind = .restart then .restart c else .format c
      let body : Body := if kind = .restart then [⟨4, p.minuteNow⟩] else []
      ∃ t, exec i s = .next t ∧ t.pending = s.pending ∧ t.part.books = p.books
        ∧ t.part.port = p.port.withAnswer x.port
            { code := if kind = .restart then 35 else 36, tag := x.tag, body := ⟨1, 0⟩ :: body, starts := some kind } (some c)
        ∧ ((p.portAt x.port).waitingAnswers = [] → (p.portAt x.port).answers.length < 16 →
            t.part.engine.startOwed = some kind)
end

