-- ==== Sys2Proof/Laws/Tables.lean ====
section
/-! SUPPORT. What the operations on sparse tables, free lists and lists of units do: what an entry reads as after a write,
and that every operation keeps the canonical form. -/

namespace Sys2Proof.Machine

/-! ### Lists of units -/

@[simp] theorem length_modifyAt {α : Type} (l : List α) (i : Nat) (f : α → α) : (modifyAt l i f).length = l.length := by
  simp [modifyAt]

theorem getElem?_modifyAt {α : Type} (l : List α) (i j : Nat) (f : α → α) :
    (modifyAt l i f)[j]? = if j = i then l[j]?.map f else l[j]? := by
  simp only [modifyAt, List.getElem?_mapIdx]
  by_cases h : j = i
  · simp [h]
  · cases l[j]? <;> simp [h]

theorem getD_modifyAt_of_ne {α : Type} (l : List α) (i j : Nat) (f : α → α) (d : α) (h : j ≠ i) :
    (modifyAt l i f).getD j d = l.getD j d := by
  simp [List.getD_eq_getElem?_getD, getElem?_modifyAt, h]

theorem getD_modifyAt_self {α : Type} (l : List α) (i : Nat) (f : α → α) (d : α) (h : i < l.length) :
    (modifyAt l i f).getD i d = f (l.getD i d) := by
  rw [List.getD_eq_getElem?_getD, List.getD_eq_getElem?_getD, getElem?_modifyAt]
  simp [h]

theorem all_modifyAt {α : Type} {P : α → Bool} {l : List α} {i : Nat} {f : α → α} (hl : l.all P = true)
    (hf : ∀ a, P a = true → P (f a) = true) : (modifyAt l i f).all P = true := by
  simp only [List.all_eq_true] at *
  intro q hq
  simp only [modifyAt, List.mem_mapIdx] at hq
  obtain ⟨j, hj, rfl⟩ := hq
  split
  · exact hf _ (hl _ (List.getElem_mem hj))
  · exact hl _ (List.getElem_mem hj)

/-! ### Reading a table after a change -/

theorem tfind_tput_self {α : Type} (t : Table α) (k : Nat) (a : α) : tfind (tput t k a) k = some a := by
  induction t with
  | nil => simp [tput, tfind]
  | cons e r ih =>
    obtain ⟨i, b⟩ := e
    simp only [tput]
    split
    · simp [tfind]
    · split
      · simp [tfind]
      · rename_i h
        simp [tfind, Ne.symm h, ih]

theorem tfind_tput_of_ne {α : Type} (t : Table α) (j k : Nat) (a : α) (h : j ≠ k) :
    tfind (tput t k a) j = tfind t j := by
  induction t with
  | nil => simp [tput, tfind, h.symm]
  | cons e r ih =>
    obtain ⟨i, b⟩ := e
    simp only [tput]
    split
    · simp [tfind, h.symm]
    · split
      · rename_i hk
        subst hk
        simp [tfind, h.symm]
      · simp [tfind, ih]

theorem tfind_tdel_of_ne {α : Type} (t : Table α) (j k : Nat) (h : j ≠ k) : tfind (tdel t k) j = tfind t j := by
  induction t with
  | nil => simp [tdel]
  | cons e r ih =>
    obtain ⟨i, b⟩ := e
    simp only [tdel]
    split
    · rename_i hk
      subst hk
      simp [tfind, h.symm, ih]
    · simp [tfind, ih]

theorem tfind_tdel_self {α : Type} (t : Table α) (k : Nat) : tfind (tdel t k) k = none := by
  induction t with
  | nil => rfl
  | cons e r ih =>
    obtain ⟨i, a⟩ := e
    simp only [tdel]
    split
    · exact ih
    · rename_i hi
      simp [tfind, hi, ih]

/-- Every index of a table is above a bound. -/
def Table.above {α : Type} (n : Nat) (t : Table α) : Prop := ∀ e ∈ t, n < e.1

theorem rising_cons {α : Type} (i : Nat) (a : α) (r : Table α) :
    Table.rising ((i, a) :: r) = true ↔ Table.above i r ∧ Table.rising r = true := by
  induction r generalizing i a with
  | nil => simp [Table.rising, Table.above]
  | cons e r ih =>
    obtain ⟨j, b⟩ := e
    simp only [Table.rising, Bool.and_eq_true, decide_eq_true_eq]
    constructor
    · rintro ⟨h, hr⟩
      refine ⟨?_, hr⟩
      intro e he
      rcases List.mem_cons.1 he with rfl | he
      · exact h
      · exact Nat.lt_trans h (((ih j b).1 hr).1 e he)
    · rintro ⟨h, hr⟩
      exact ⟨h (j, b) (List.mem_cons_self ..), hr⟩

theorem mem_tdel {α : Type} {t : Table α} {k : Nat} {e : Nat × α} (h : e ∈ tdel t k) : e ∈ t := by
  induction t with
  | nil => simp [tdel] at h
  | cons d r ih =>
    obtain ⟨i, a⟩ := d
    simp only [tdel] at h
    split at h
    · exact List.mem_cons_of_mem _ (ih h)
    · rcases List.mem_cons.1 h with rfl | h
      · exact List.mem_cons_self ..
      · exact List.mem_cons_of_mem _ (ih h)

theorem mem_tput {α : Type} {t : Table α} {k : Nat} {a : α} {e : Nat × α} (h : e ∈ tput t k a) : e = (k, a) ∨ e ∈ t := by
  induction t with
  | nil => simpa [tput] using h
  | cons d r ih =>
    obtain ⟨i, b⟩ := d
    simp only [tput] at h
    split at h
    · simpa using h
    · split at h
      · rcases List.mem_cons.1 h with rfl | h
        · exact Or.inl rfl
        · exact Or.inr (List.mem_cons_of_mem _ h)
      · rcases List.mem_cons.1 h with rfl | h
        · exact Or.inr (List.mem_cons_self ..)
        · rcases ih h with rfl | h
          · exact Or.inl rfl
          · exact Or.inr (List.mem_cons_of_mem _ h)

/-! ### The canonical form is kept -/

theorem rising_tput {α : Type} {t : Table α} (h : Table.rising t = true) (k : Nat) (a : α) :
    Table.rising (tput t k a) = true := by
  induction t with
  | nil => rfl
  | cons e r ih =>
    obtain ⟨i, b⟩ := e
    have h' := (rising_cons i b r).1 h
    simp only [tput]
    split
    · rename_i hk
      rw [rising_cons]
      refine ⟨?_, h⟩
      intro e he
      rcases List.mem_cons.1 he with rfl | he
      · exact hk
      · exact Nat.lt_trans hk (h'.1 e he)
    · split
      · rename_i hk
        subst hk
        rw [rising_cons]
        exact h'
      · rename_i h1 h2
        rw [rising_cons]
        refine ⟨?_, ih h'.2⟩
        intro e he
        rcases mem_tput he with rfl | he
        · show i < k
          omega
        · exact h'.1 e he

theorem rising_tdel {α : Type} {t : Table α} (h : Table.rising t = true) (k : Nat) : Table.rising (tdel t k) = true := by
  induction t with
  | nil => rfl
  | cons e r ih =>
    obtain ⟨i, b⟩ := e
    have h' := (rising_cons i b r).1 h
    simp only [tdel]
    split
    · exact ih h'.2
    · rw [rising_cons]
      exact ⟨fun e he => h'.1 e (mem_tdel he), ih h'.2⟩

theorem wf_nil {α : Type} [DecidableEq α] (dflt : α) : Table.wf dflt ([] : Table α) = true := rfl

theorem wf_tset {α : Type} [DecidableEq α] {dflt : α} {t : Table α} (h : Table.wf dflt t = true) (k : Nat) (a : α) :
    Table.wf dflt (tset t k a dflt) = true := by
  simp only [Table.wf, Bool.and_eq_true, List.all_eq_true, decide_eq_true_eq] at *
  simp only [tset]
  split
  · exact ⟨rising_tdel h.1 k, fun e he => h.2 e (mem_tdel he)⟩
  · rename_i ha
    refine ⟨rising_tput h.1 k a, fun e he => ?_⟩
    rcases mem_tput he with rfl | he
    · exact ha
    · exact h.2 e he

/-- What an entry reads as after a canonical write. -/
theorem tget_tset_self {α : Type} [DecidableEq α] (t : Table α) (k : Nat) (a dflt : α) :
    tget (tset t k a dflt) k dflt = a := by
  simp only [tget, tset]
  split
  · rename_i ha
    simp [tfind_tdel_self, ha]
  · simp [tfind_tput_self]

theorem tget_tset_of_ne {α : Type} [DecidableEq α] (t : Table α) (j k : Nat) (a dflt : α) (h : j ≠ k) :
    tget (tset t k a dflt) j dflt = tget t j dflt := by
  simp only [tget, tset]
  split
  · rw [tfind_tdel_of_ne t j k h]
  · rw [tfind_tput_of_ne t j k a h]

/-! ### Free lists -/

/-- No run of a free list is empty. -/
def FreeList.runs (l : FreeList) : Bool := l.all fun e => decide (0 < e.2)

/-- Taking the head of a free list takes its first number. -/
theorem numbers_pop {l : FreeList} {x : Nat} {rest : FreeList} (hl : l.runs = true) (h : l.pop = some (x, rest)) :
    FreeList.numbers l = x :: FreeList.numbers rest := by
  cases l with
  | nil => simp [FreeList.pop] at h
  | cons e r =>
    obtain ⟨a, n⟩ := e
    have hn : 0 < n := by
      simp only [FreeList.runs, List.all_cons, Bool.and_eq_true, decide_eq_true_eq] at hl
      exact hl.1
    obtain ⟨m, rfl⟩ : ∃ m, n = m + 1 := ⟨n - 1, by omega⟩
    simp only [FreeList.pop] at h
    split at h
    · rename_i hm
      simp only [Option.some.injEq, Prod.mk.injEq] at h
      obtain ⟨rfl, rfl⟩ := h
      obtain rfl : m = 0 := by omega
      simp [FreeList.numbers]
    · simp only [Option.some.injEq, Prod.mk.injEq] at h
      obtain ⟨rfl, rfl⟩ := h
      simp [FreeList.numbers, List.range'_succ]

/-- Putting a number back at the tail puts it last. -/
theorem numbers_push (l : FreeList) (x : Nat) : FreeList.numbers (l.push x) = FreeList.numbers l ++ [x] := by
  induction l with
  | nil => simp [FreeList.push, FreeList.numbers]
  | cons e r ih =>
    obtain ⟨a, n⟩ := e
    cases r with
    | nil =>
      simp only [FreeList.push]
      split
      · rename_i h
        subst h
        simp [FreeList.numbers, List.range'_concat]
      · simp [FreeList.numbers]
    | cons d r =>
      simp only [FreeList.push, FreeList.numbers] at ih ⊢
      rw [ih]
      simp

/-- Putting a number at the head puts it first. -/
theorem numbers_pushHead (l : FreeList) (x : Nat) : FreeList.numbers (l.pushHead x) = x :: FreeList.numbers l := by
  cases l with
  | nil => simp [FreeList.pushHead, FreeList.numbers]
  | cons e r =>
    obtain ⟨a, n⟩ := e
    simp only [FreeList.pushHead]
    split
    · rename_i h
      subst h
      simp [FreeList.numbers, List.range'_succ]
    · simp [FreeList.numbers]

theorem size_eq_length (l : FreeList) : l.size = (FreeList.numbers l).length := by
  induction l with
  | nil => rfl
  | cons e r ih =>
    obtain ⟨a, n⟩ := e
    simp [FreeList.size, FreeList.numbers, ih]

end Sys2Proof.Machine
end

