-- ==== Sys2Proof/Laws/Fits.lean ====
section
/-! SUPPORT. No operation makes a queue of the part hold more than it has room for (`Part.fits`): one lemma for each
operation, for every part whose queues are within their sizes before it. -/

set_option linter.unusedSimpArgs false
set_option linter.unusedVariables false

namespace Sys2Proof.Machine

theorem fits_mk (power resetLine : Bool) (lines : List Bool) (zone tally path engine port mem free) :
    (Part.mk power resetLine lines zone tally path engine port mem free).fits = true ↔
      path.queue.length ≤ Config.writeQueueSize ∧ tally.queue.length ≤ Config.tallyQueueSize
        ∧ engine.faults.length ≤ Config.faultListSize ∧ port.ports.all Port.fits = true := by
  simp [Part.fits, and_assoc]

theorem fits_iff (p : Part) : p.fits = true ↔ p.path.queue.length ≤ Config.writeQueueSize ∧ p.tally.queue.length ≤ Config.tallyQueueSize
        ∧ p.engine.faults.length ≤ Config.faultListSize ∧ p.port.ports.all Port.fits = true := by
  simp [Part.fits, and_assoc]
theorem fits_writes {p : Part} (h : p.fits = true) : p.path.queue.length ≤ Config.writeQueueSize := ((fits_iff p).1 h).1
theorem fits_cmds {p : Part} (h : p.fits = true) : p.tally.queue.length ≤ Config.tallyQueueSize := ((fits_iff p).1 h).2.1
theorem fits_faults {p : Part} (h : p.fits = true) : p.engine.faults.length ≤ Config.faultListSize := ((fits_iff p).1 h).2.2.1
theorem fits_ports {p : Part} (h : p.fits = true) : p.port.ports.all Port.fits = true := ((fits_iff p).1 h).2.2.2


theorem port_fits_iff (q : Port) : q.fits = true ↔ q.outstanding ≤ Config.outstandingLimit
    ∧ q.answers.length ≤ Config.answerQueueSize ∧ q.notices.length ≤ Config.noticeQueueSize := by
  simp [Port.fits, and_assoc]

theorem ite_fits {c : Prop} [Decidable c] {p q : Part} (hp : p.fits = true) (hq : q.fits = true) :
    (if c then p else q).fits = true := by
  split
  · exact hp
  · exact hq

theorem foldl_fits {β : Type} (f : Part → β → Part) (h : ∀ q b, q.fits = true → (f q b).fits = true) (l : List β)
    (p : Part) (hp : p.fits = true) : (l.foldl f p).fits = true := by
  induction l generalizing p with
  | nil => exact hp
  | cons b l ih => exact ih _ (h _ _ hp)

theorem all_mapIdx {P : Port → Bool} {l : List Port} {f : Nat → Port → Port} (hl : l.all P = true)
    (hf : ∀ i q, P q = true → P (f i q) = true) : (l.mapIdx f).all P = true := by
  simp only [List.all_eq_true] at *
  intro q hq
  simp only [List.mem_mapIdx] at hq
  obtain ⟨j, hj, rfl⟩ := hq
  exact hf _ _ (hl _ (List.getElem_mem hj))

theorem setPort_fits_at {p : Part} {i : Nat} {f : Port → Port} (h : p.fits = true)
    (hf : ∀ q, q.fits = true → q = p.portAt i → (f q).fits = true) : (p.setPort i f).fits = true := by
  simp only [Part.setPort, fits_mk]
  refine ⟨fits_writes h, fits_cmds h, fits_faults h, ?_⟩
  have hl := fits_ports h
  simp only [List.all_eq_true] at *
  intro q hq
  simp only [modifyAt, List.mem_mapIdx] at hq
  obtain ⟨j, hj, rfl⟩ := hq
  split
  · rename_i e
    subst e
    refine hf _ (hl _ (List.getElem_mem hj)) ?_
    simp [Part.portAt, List.getD_eq_getElem?_getD, hj]
  · exact hl _ (List.getElem_mem hj)

theorem setPort_fits {p : Part} {i : Nat} {f : Port → Port} (h : p.fits = true)
    (hf : ∀ q, q.fits = true → (f q).fits = true) : (p.setPort i f).fits = true :=
  setPort_fits_at h fun q hq _ => hf q hq

theorem portAt_setPort {α : Type} {p : Part} {i : Nat} {f : Port → Port} {g : Port → α} (hg : ∀ q, g (f q) = g q) :
    g ((p.setPort i f).portAt i) = g (p.portAt i) := by
  simp only [Part.portAt, Part.setPort, List.getD_eq_getElem?_getD, getElem?_modifyAt, if_true]
  cases p.port.ports[i]? with
  | none => rfl
  | some q => exact hg q

theorem beginTurn_fits {q : Port} (h : q.fits = true) : q.beginTurn.fits = true := by
  rw [port_fits_iff] at *
  simp only [Port.beginTurn]
  split
  · exact h
  · split
    · exact h
    · rename_i e _
      rw [e] at h
      simp only [List.length_cons] at h
      exact ⟨h.1, by simp only [Port.sendAnswer]; omega, h.2.2⟩
    · rename_i e
      rw [e] at h
      simp only [List.length_cons] at h
      exact ⟨h.1, h.2.1, by simp only [Port.sendNotice]; omega⟩
    · rename_i e1 e2
      rw [e1, e2] at h
      simp only [List.length_cons] at h
      split
      · exact ⟨h.1, by simp only [Port.sendNotice, e1, List.length_cons]; omega, by simp only [Port.sendNotice]; omega⟩
      · exact ⟨h.1, by simp only [Port.sendAnswer]; omega, by simp only [Port.sendAnswer, e2, List.length_cons]; omega⟩

theorem takeNotice_fits {q : Port} {kind : NoticeKind} {body : Body} (h : q.fits = true) :
    (q.takeNotice kind body).fits = true := by
  simp only [Port.takeNotice]
  split
  · exact h
  · split
    · exact h
    · rename_i hc
      apply beginTurn_fits
      rw [port_fits_iff] at *
      exact ⟨h.1, h.2.1, by simp only [List.length_append, List.length_singleton]; omega⟩

/-! ### Machine/Ops.lean -/

@[simp] theorem Part.setZone_fits (p : Part) (z : Nat) (f : Zone → Zone) (h : p.fits = true) :
    (Part.setZone p z f).fits = true := by
  simp only [Part.setZone]
  (repeat' split) <;> simp (maxDischargeDepth := 40) [fits_mk, fits_writes, fits_cmds, fits_faults, fits_ports, length_modifyAt, *]

@[simp] theorem Part.setList_fits (p : Part) (l : Nat) (d : DueList) (h : p.fits = true) :
    (Part.setList p l d).fits = true := by
  simp only [Part.setList]
  (repeat' split) <;> simp (maxDischargeDepth := 40) [fits_mk, fits_writes, fits_cmds, fits_faults, fits_ports, length_modifyAt, *]

@[simp] theorem Part.setRoot_fits (p : Part) (c : Nat) (e : RootEntry) (h : p.fits = true) :
    (Part.setRoot p c e).fits = true := by
  simp only [Part.setRoot]
  (repeat' split) <;> simp (maxDischargeDepth := 40) [fits_mk, fits_writes, fits_cmds, fits_faults, fits_ports, length_modifyAt, *]

@[simp] theorem Part.setSlot_fits (p : Part) (s : Nat) (st : SlotState) (h : p.fits = true) :
    (Part.setSlot p s st).fits = true := by
  simp only [Part.setSlot]
  (repeat' split) <;> simp (maxDischargeDepth := 40) [fits_mk, fits_writes, fits_cmds, fits_faults, fits_ports, length_modifyAt, *]

@[simp] theorem Part.setBag_fits (p : Part) (b : Nat) (r : BagRecord) (h : p.fits = true) :
    (Part.setBag p b r).fits = true := by
  simp only [Part.setBag]
  (repeat' split) <;> simp (maxDischargeDepth := 40) [fits_mk, fits_writes, fits_cmds, fits_faults, fits_ports, length_modifyAt, *]

@[simp] theorem Part.setCtx_fits (p : Part) (c : Nat) (x : Context) (h : p.fits = true) :
    (Part.setCtx p c x).fits = true := by
  simp only [Part.setCtx]
  (repeat' split) <;> simp (maxDischargeDepth := 40) [fits_mk, fits_writes, fits_cmds, fits_faults, fits_ports, length_modifyAt, *]

@[simp] theorem Part.dropCtx_fits (p : Part) (c : Nat) (h : p.fits = true) : (Part.dropCtx p c).fits = true := by
  simp only [Part.dropCtx]
  (repeat' split) <;> simp (maxDischargeDepth := 40) [fits_mk, fits_writes, fits_cmds, fits_faults, fits_ports, length_modifyAt, *]

@[simp] theorem Part.updCtx_fits (p : Part) (c : Nat) (f : Context → Context) (h : p.fits = true) :
    (Part.updCtx p c f).fits = true := by
  simp only [Part.updCtx]
  (repeat' split) <;> simp (maxDischargeDepth := 40) [fits_mk, fits_writes, fits_cmds, fits_faults, fits_ports, length_modifyAt, *]

@[simp] theorem Part.giveOn_fits (p : Part) (i : Nat) (kind : NoticeKind) (holderCopy : Bool) (body : Body) (h : p.fits = true) :
    (Part.giveOn p i kind holderCopy body).fits = true := by
  exact setPort_fits h fun q hq => takeNotice_fits hq


@[simp] theorem Part.giveRouted_fits (p : Part) (kind : NoticeKind) (body : Body) (h : p.fits = true) :
    (Part.giveRouted p kind body).fits = true := by
  simp only [Part.giveRouted]
  (repeat' split) <;> simp (maxDischargeDepth := 40) [fits_mk, fits_writes, fits_cmds, fits_faults, fits_ports, length_modifyAt, *]

@[simp] theorem Part.giveModeChange_fits (p : Part) (left entered : Mode) (cause : ModeCause) (h : p.fits = true) :
    (Part.giveModeChange p left entered cause).fits = true := by
  simp only [Part.giveModeChange]
  (repeat' split) <;> simp (maxDischargeDepth := 40) [fits_mk, fits_writes, fits_cmds, fits_faults, fits_ports, length_modifyAt, *]

theorem Part.queueAnswer_fits (p : Part) (i : Nat) (a : Answer) (ctx : Option Nat) (h : p.fits = true)
    (hr : (p.portAt i).answers.length < Config.answerQueueSize) : (p.queueAnswer i a ctx).fits = true := by
  have h1 : (p.setPort i fun q =>
      ({ q with answers := q.answers ++ [a], outstanding := q.outstanding - 1 } : Port).beginTurn).fits = true :=
    setPort_fits_at h fun q hq he => beginTurn_fits (by
      rw [port_fits_iff] at hq ⊢
      subst he
      exact ⟨by simp only; omega, by simp only [List.length_append, List.length_singleton]; omega, hq.2.2⟩)
  simp only [Part.queueAnswer]
  (repeat' split) <;> simp (maxDischargeDepth := 40) [fits_mk, fits_writes, fits_cmds, fits_faults, fits_ports, h1]

@[simp] theorem Part.composeAnswer_fits (p : Part) (i : Nat) (a : Answer) (ctx : Option Nat) (h : p.fits = true) :
    (p.composeAnswer i a ctx).fits = true := by
  simp only [Part.composeAnswer]
  split
  · rename_i hc
    exact p.queueAnswer_fits i a ctx h hc.2
  · exact setPort_fits h fun q hq => hq

@[simp] theorem Part.grant_fits (p : Part) (r : Requester) (a : Access) (h : p.fits = true) :
    (Part.grant p r a).fits = true := by
  simp only [Part.grant]
  (repeat' split) <;> simp (maxDischargeDepth := 40) [fits_mk, fits_writes, fits_cmds, fits_faults, fits_ports, length_modifyAt, *]

@[simp] theorem Part.grantFirst_fits (p : Part) (l : List Requester) (h : p.fits = true) :
    (p.grantFirst l).fits = true := by
  induction l with
  | nil => exact h
  | cons r rest ih =>
    simp only [Part.grantFirst]
    split
    · exact Part.grant_fits _ _ _ h
    · exact ih

@[simp] theorem Part.arbitrate_fits (p : Part) (h : p.fits = true) : p.arbitrate.fits = true := by
  simp only [Part.arbitrate]
  split
  · exact h
  · exact Part.grantFirst_fits p _ h

@[simp] theorem Part.endAccess_fits (p : Part) (h : p.fits = true) : (Part.endAccess p).fits = true := by
  simp only [Part.endAccess]
  (repeat' split) <;> simp (maxDischargeDepth := 40) [fits_mk, fits_writes, fits_cmds, fits_faults, fits_ports, length_modifyAt, *]

@[simp] theorem Part.pushWrite_fits (p : Part) (ctx : Option Nat) (b : WriteBody) (h : p.fits = true) :
    (p.pushWrite ctx b).fits = true := by
  have hw := fits_writes h
  simp only [Part.pushWrite]
  (repeat' split) <;> (try apply Part.arbitrate_fits) <;> simp [fits_mk, fits_cmds h, fits_faults h, fits_ports h, hw]
  all_goals omega

@[simp] theorem Part.setTally_fits (p : Part) (n : Nat) (t : Tally) (cmd : Option Nat) (h : p.fits = true) :
    (Part.setTally p n t cmd).fits = true := by
  simp only [Part.setTally]
  (repeat' split) <;> simp (maxDischargeDepth := 40) [fits_mk, fits_writes, fits_cmds, fits_faults, fits_ports, length_modifyAt, *]

@[simp] theorem Part.pushZoneWrite_fits (p : Part) (z : Nat) (h : p.fits = true) :
    (Part.pushZoneWrite p z).fits = true := by
  simp only [Part.pushZoneWrite]
  (repeat' split) <;> simp (maxDischargeDepth := 40) [fits_mk, fits_writes, fits_cmds, fits_faults, fits_ports, length_modifyAt, *]

@[simp] theorem Part.fixZoneWrites_fits (p : Part) (h : p.fits = true) : p.fixZoneWrites.fits = true := by
  simpa only [fits_iff, Part.fixZoneWrites] using h

@[simp] theorem Part.pushAdvance_fits (p : Part) (area : MeterArea) (gap : Bool) (h : p.fits = true) :
    (p.pushAdvance area gap).fits = true :=
  Part.arbitrate_fits _ h

@[simp] theorem Part.issueRead_fits (p : Part) (client : ReadClient) (t : ReadTarget) (h : p.fits = true) :
    (Part.issueRead p client t).fits = true := by
  simp only [Part.issueRead]
  (repeat' split) <;> simp (maxDischargeDepth := 40) [fits_mk, fits_writes, fits_cmds, fits_faults, fits_ports, length_modifyAt, *]

theorem Part.takeReturn_fits {p : Part} {client : ReadClient} {v : Option ReadValue} {q : Part}
    (e : p.takeReturn client = some (v, q)) (h : p.fits = true) : q.fits = true := by
  simp only [Part.takeReturn] at e
  (repeat' split at e) <;> simp at e <;> (obtain ⟨-, rfl⟩ := e) <;>
    simp (maxDischargeDepth := 40) [fits_mk, fits_writes, fits_cmds, fits_faults, fits_ports, h]

/-! ### Machine/RecordPath.lean -/

@[simp] theorem Part.resolveKey_fits (p : Part) (c : Nat) (k : Key) (r : Resolution) (h : p.fits = true) :
    (Part.resolveKey p c k r).fits = true := by
  simp only [Part.resolveKey]
  (repeat' split) <;> simp (maxDischargeDepth := 40) [fits_mk, fits_writes, fits_cmds, fits_faults, fits_ports, length_modifyAt, *]

@[simp] theorem Part.readyOn_fits (p : Part) (c : Nat) (k : Key) (index slot : Nat) (form : KeyForm) (h : p.fits = true) :
    (Part.readyOn p c k index slot form).fits = true := by
  simp only [Part.readyOn]
  (repeat' split) <;> simp (maxDischargeDepth := 40) [fits_mk, fits_writes, fits_cmds, fits_faults, fits_ports, length_modifyAt, *]

@[simp] theorem Part.returnSlot_fits (p : Part) (slot : Nat) (h : p.fits = true) :
    (Part.returnSlot p slot).fits = true := by
  simp only [Part.returnSlot]
  (repeat' split) <;> simp (maxDischargeDepth := 40) [fits_mk, fits_writes, fits_cmds, fits_faults, fits_ports, length_modifyAt, *]

@[simp] theorem Part.setWalk_fits (p : Part) (e : Nat) (w : Walk) (h : p.fits = true) :
    (Part.setWalk p e w).fits = true := by
  simp only [Part.setWalk]
  (repeat' split) <;> simp (maxDischargeDepth := 40) [fits_mk, fits_writes, fits_cmds, fits_faults, fits_ports, length_modifyAt, *]

@[simp] theorem Part.leaveMissWait_fits (p : Part) (c : Nat) (h : p.fits = true) : (p.leaveMissWait c).fits = true := by
  simp only [Part.leaveMissWait]
  (repeat' split) <;> simpa only [fits_iff] using h

@[simp] theorem Part.freeWalk_fits (p : Part) (e : Nat) (w : Walk) (h : p.fits = true) :
    (Part.freeWalk p e w).fits = true := by
  simp only [Part.freeWalk]
  (repeat' split) <;> simp (maxDischargeDepth := 40) [fits_mk, fits_writes, fits_cmds, fits_faults, fits_ports, length_modifyAt, *]

@[simp] theorem Part.walkFail_fits (p : Part) (e : Nat) (w : Walk) (outcome : Resolution) (h : p.fits = true) :
    (p.walkFail e w outcome).fits = true :=
  Part.freeWalk_fits _ _ _ (foldl_fits _ (fun q b hq => by simp [hq]) _ _ h)

@[simp] theorem Part.walkBegin_fits (p : Part) (e : Nat) (w : Walk) (h : p.fits = true) :
    (Part.walkBegin p e w).fits = true := by
  simp only [Part.walkBegin]
  (repeat' split) <;> simp (maxDischargeDepth := 40) [fits_mk, fits_writes, fits_cmds, fits_faults, fits_ports, length_modifyAt, *]

@[simp] theorem Part.walkRestart_fits (p : Part) (e : Nat) (w : Walk) (epoch : Nat) (h : p.fits = true) :
    (Part.walkRestart p e w epoch).fits = true := by
  simp only [Part.walkRestart]
  (repeat' split) <;> simp (maxDischargeDepth := 40) [fits_mk, fits_writes, fits_cmds, fits_faults, fits_ports, length_modifyAt, *]

@[simp] theorem Part.miss_fits (p : Part) (c : Nat) (k : Key) (h : p.fits = true) :
    (Part.miss p c k).fits = true := by
  simp only [Part.miss]
  (repeat' split) <;> simp (maxDischargeDepth := 40) [fits_mk, fits_writes, fits_cmds, fits_faults, fits_ports, length_modifyAt, *]

@[simp] theorem Part.probeOnce_fits (p : Part) (c : Nat) (k : Key) (h : p.fits = true) :
    (Part.probeOnce p c k).fits = true := by
  simp only [Part.probeOnce]
  (repeat' split) <;> simp (maxDischargeDepth := 40) [fits_mk, fits_writes, fits_cmds, fits_faults, fits_ports, length_modifyAt, *]

theorem Part.probesFrom_fits (n : Nat) : ∀ p : Part, p.fits = true → (Part.probesFrom n p).fits = true := by
  induction n with
  | zero => exact fun p h => h
  | succ n ih =>
    intro p h
    simp only [Part.probesFrom]
    split
    · exact h
    · exact ih _ (Part.probeOnce_fits _ _ _ h)

@[simp] theorem Part.makeProbes_fits (p : Part) (h : p.fits = true) : p.makeProbes.fits = true :=
  Part.probesFrom_fits _ p h

@[simp] theorem Part.probe_fits (p : Part) (c : Nat) (k : Key) (h : p.fits = true) : (p.probe c k).fits = true :=
  Part.makeProbes_fits _ (Part.probeOnce_fits p c k h)

@[simp] theorem Part.removeEntry_fits (p : Part) (index : Nat) (h : p.fits = true) : (p.removeEntry index).fits = true :=
  foldl_fits _ (fun q b hq => by simp [hq]) _ _ (foldl_fits _ (fun q b hq => by simp [hq]) _ _ h)

@[simp] theorem Part.removeSlotEntry_fits (p : Part) (slot : Nat) (h : p.fits = true) :
    (Part.removeSlotEntry p slot).fits = true := by
  simp only [Part.removeSlotEntry]
  (repeat' split) <;> simp (maxDischargeDepth := 40) [fits_mk, fits_writes, fits_cmds, fits_faults, fits_ports, length_modifyAt, *]

@[simp] theorem Part.walkFilled_fits (p : Part) (e : Nat) (w : Walk) (index slot : Nat) (h : p.fits = true) :
    (p.walkFilled e w index slot).fits = true :=
  Part.freeWalk_fits _ _ _ (foldl_fits _ (fun q b hq => by simp [hq]) _ _ h)

@[simp] theorem Part.dropOutdated_fits (p : Part) (k : Key) (h : p.fits = true) : (p.dropOutdated k).fits = true := by
  simp only [Part.dropOutdated]
  (repeat' split) <;> simp [h]

@[simp] theorem Part.fill_fits (p : Part) (e : Nat) (w : Walk) (slot : Nat) (r : CarrierRecord) (h : p.fits = true) :
    (Part.fill p e w slot r).fits = true := by
  simp only [Part.fill]
  (repeat' split) <;> simp (maxDischargeDepth := 40) [fits_mk, fits_writes, fits_cmds, fits_faults, fits_ports, length_modifyAt, *]

@[simp] theorem Part.enterFault_fits (p : Part) (slot : Nat) (k : Key) (h : p.fits = true) :
    (p.enterFault slot k).fits = true := by
  simp only [Part.enterFault]
  split
  · rename_i hc
    rw [fits_mk]
    refine ⟨fits_writes h, fits_cmds h, ?_, fits_ports h⟩
    simp only [List.length_append, List.length_singleton]
    omega
  · rw [fits_mk]
    exact ⟨fits_writes h, fits_cmds h, fits_faults h, fits_ports h⟩

@[simp] theorem Part.giveFaultNotice_fits (p : Part) (slot : Nat) (k : Key) (position : Option Nat) (h : p.fits = true) :
    (Part.giveFaultNotice p slot k position).fits = true := by
  simp only [Part.giveFaultNotice]
  (repeat' split) <;> simp (maxDischargeDepth := 40) [fits_mk, fits_writes, fits_cmds, fits_faults, fits_ports, length_modifyAt, *]

theorem Part.declareFault_fits (p : Part) (slot : Nat) (k : Key) (endWalk : Part → Part)
    (he : ∀ q, q.fits = true → (endWalk q).fits = true) (h : p.fits = true) : (p.declareFault slot k endWalk).fits = true := by
  simp only [Part.declareFault]
  (repeat' split) <;> simp (maxDischargeDepth := 40) [he, h]

@[simp] theorem Part.walkFill_fits (p : Part) (e : Nat) (w : Walk) (h : p.fits = true) :
    (Part.walkFill p e w).fits = true := by
  simp only [Part.walkFill]
  (repeat' split) <;> simp (maxDischargeDepth := 40) [fits_mk, fits_writes, fits_cmds, fits_faults, fits_ports, length_modifyAt, *]

@[simp] theorem Part.walkHolds_fits (p : Part) (e : Nat) (w : Walk) (r : CarrierRecord) (h : p.fits = true) :
    (Part.walkHolds p e w r).fits = true := by
  simp only [Part.walkHolds]
  (repeat' split) <;> simp (maxDischargeDepth := 40) [fits_mk, fits_writes, fits_cmds, fits_faults, fits_ports, length_modifyAt, *]

@[simp] theorem Part.walkSlot_fits (p : Part) (e : Nat) (w : Walk) (s : Nat) (h : p.fits = true) :
    (Part.walkSlot p e w s).fits = true := by
  simp only [Part.walkSlot]
  (repeat' split) <;> simp (maxDischargeDepth := 40) [fits_mk, fits_writes, fits_cmds, fits_faults, fits_ports, length_modifyAt, *]

@[simp] theorem Part.walkRecord_fits (p : Part) (e : Nat) (w : Walk) (s : Nat) (r : Option CarrierRecord)
    (checked : Bool) (h : p.fits = true) : (p.walkRecord e w s r checked).fits = true := by
  have hd : (p.declareFault s w.key fun q => q.walkFail e w .recordFault).fits = true :=
    Part.declareFault_fits _ _ _ _ (fun q hq => Part.walkFail_fits _ _ _ _ hq) h
  simp only [Part.walkRecord]
  (repeat' split) <;> simp [h, hd]

@[simp] theorem Part.walkRead_fits (p : Part) (e : Nat) (w : Walk) (v : ReadValue) (h : p.fits = true) :
    (Part.walkRead p e w v).fits = true := by
  simp only [Part.walkRead]
  (repeat' split) <;> simp (maxDischargeDepth := 40) [fits_mk, fits_writes, fits_cmds, fits_faults, fits_ports, length_modifyAt, *]

@[simp] theorem Part.completeWrite_fits (p : Part) (h : p.fits = true) : p.completeWrite.fits = true := by
  have hw := fits_writes h
  simp only [Part.completeWrite]
  split
  · exact h
  · rename_i w rest e
    rw [e] at hw
    apply Part.endAccess_fits
    rw [fits_mk]
    refine ⟨?_, fits_cmds h, fits_faults h, fits_ports h⟩
    show rest.length ≤ _
    simp only [List.length_cons] at hw
    omega

/-! ### Machine/Contexts.lean -/

@[simp] theorem Part.startKey_fits (p : Part) (c : Nat) (q : Request) (k : Key) (h : p.fits = true) :
    (Part.startKey p c q k).fits = true := by
  simp only [Part.startKey]
  (repeat' split) <;> simp (maxDischargeDepth := 40) [fits_mk, fits_writes, fits_cmds, fits_faults, fits_ports, length_modifyAt, *]

@[simp] theorem Part.leaveChained_fits (p : Part) (c : Nat) (x : Context) (h : p.fits = true) :
    (p.leaveChained c x).fits = true := by
  simp only [Part.leaveChained]
  split <;> exact foldl_fits _ (fun q b hq => by simp [hq]) _ _ (by simp [h])

@[simp] theorem Part.openGates_fits (p : Part) (h : p.fits = true) :
    (Part.openGates p).fits = true := by
  rw [Part.openGates]
  refine foldl_fits _ ?_ _ _ ?_
  · intro q b hq
    split <;> simp [hq]
  · exact h


@[simp] theorem Part.issueNext_fits (p : Part) (c : Nat) (h : p.fits = true) : (p.issueNext c).fits = true := by
  simp only [Part.issueNext]
  split
  · exact h
  · split
    · exact h
    · split
      · exact h
      · rename_i hc
        apply Part.setCtx_fits
        rw [fits_mk]
        refine ⟨fits_writes h, ?_, fits_faults h, fits_ports h⟩
        simp only [List.length_append, List.length_singleton]
        omega

@[simp] theorem Part.entryFreed_fits (p : Part) (wasFull : Bool) (h : p.fits = true) : (p.entryFreed wasFull).fits = true := by
  simp only [Part.entryFreed]
  (repeat' split) <;> simp [h]

@[simp] theorem Part.dropFaulted_fits (p : Part) (slots : List Nat) (h : p.fits = true) :
    (Part.dropFaulted p slots).fits = true := by
  rw [Part.dropFaulted]
  refine foldl_fits _ ?_ _ _ ?_
  · intro q b hq
    split <;> simp [hq]
  · exact h


@[simp] theorem Part.answer_fits (p : Part) (c : Nat) (r : Reply) (h : p.fits = true) :
    (Part.answer p c r).fits = true := by
  simp only [Part.answer]
  (repeat' split) <;> simp (maxDischargeDepth := 40) [fits_mk, fits_writes, fits_cmds, fits_faults, fits_ports, length_modifyAt, *]

@[simp] theorem Part.finish_fits (p : Part) (c : Nat) (h : p.fits = true) : (Part.finish p c).fits = true := by
  simp only [Part.finish]
  (repeat' split) <;> simp (maxDischargeDepth := 40) [fits_mk, fits_writes, fits_cmds, fits_faults, fits_ports, length_modifyAt, *]

@[simp] theorem Part.reply_fits (p : Part) (c : Nat) (s : Status) (body : Body) (h : p.fits = true) :
    (Part.reply p c s body).fits = true := by
  simp only [Part.reply]
  (repeat' split) <;> simp (maxDischargeDepth := 40) [fits_mk, fits_writes, fits_cmds, fits_faults, fits_ports, length_modifyAt, *]

@[simp] theorem Part.refuse_fits (p : Part) (c : Nat) (s : Status) (body : Body) (h : p.fits = true) :
    (Part.refuse p c s body).fits = true := by
  simp only [Part.refuse]
  (repeat' split) <;> simp (maxDischargeDepth := 40) [fits_mk, fits_writes, fits_cmds, fits_faults, fits_ports, length_modifyAt, *]

@[simp] theorem Part.command_fits (p : Part) (c : Nat) (ops : List TallyOp) (h : p.fits = true) :
    (Part.command p c ops).fits = true := by
  simp only [Part.command]
  (repeat' split) <;> simp (maxDischargeDepth := 40) [fits_mk, fits_writes, fits_cmds, fits_faults, fits_ports, length_modifyAt, *]

@[simp] theorem Part.changeRecord_fits (p : Part) (c : Option Nat) (slot : Nat) (r : CarrierRecord) (h : p.fits = true) :
    (Part.changeRecord p c slot r).fits = true := by
  simp only [Part.changeRecord]
  (repeat' split) <;> simp (maxDischargeDepth := 40) [fits_mk, fits_writes, fits_cmds, fits_faults, fits_ports, length_modifyAt, *]

@[simp] theorem Part.changeBag_fits (p : Part) (c : Option Nat) (b : Nat) (r : BagRecord) (h : p.fits = true) :
    (Part.changeBag p c b r).fits = true := by
  simp only [Part.changeBag]
  (repeat' split) <;> simp (maxDischargeDepth := 40) [fits_mk, fits_writes, fits_cmds, fits_faults, fits_ports, length_modifyAt, *]

@[simp] theorem Part.beginPerform_fits (p : Part) (c : Nat) (x : Context) (h : p.fits = true) :
    (p.beginPerform c x).1.fits = true :=
  Part.setCtx_fits _ _ _ h

/-! ### Machine/Directory.lean -/

@[simp] theorem Part.reprobePattern_fits (p : Part) (f : Flush) (h : p.fits = true) : (p.reprobePattern f).fits = true :=
  foldl_fits _ (fun q b hq => by simp [hq]) _ _ (foldl_fits _ (fun q b hq => by simp [hq]) _ _ h)

@[simp] theorem Part.beginFlush_fits (p : Part) (c : Nat) (consignor : BitVec 8) (lot : Option (BitVec 12)) (h : p.fits = true) :
    (Part.beginFlush p c consignor lot).fits = true := by
  simp only [Part.beginFlush]
  (repeat' split) <;> simp (maxDischargeDepth := 40) [fits_mk, fits_writes, fits_cmds, fits_faults, fits_ports, length_modifyAt, *]

@[simp] theorem Part.readLotHold_fits (p : Part) (c : Nat) (consignor lot : Nat) (h : p.fits = true) :
    (Part.readLotHold p c consignor lot).fits = true := by
  simp only [Part.readLotHold]
  (repeat' split) <;> simp (maxDischargeDepth := 40) [fits_mk, fits_writes, fits_cmds, fits_faults, fits_ports, length_modifyAt, *]

@[simp] theorem Part.lotHoldRead_fits (p : Part) (c : Nat) (h : p.fits = true) :
    (Part.lotHoldRead p c).fits = true := by
  simp only [Part.lotHoldRead]
  (repeat' split) <;> simp (maxDischargeDepth := 40) [fits_mk, fits_writes, fits_cmds, fits_faults, fits_ports, length_modifyAt, *]

@[simp] theorem Part.consignorHold_fits (p : Part) (c : Nat) (un : Bool) (con reason : Nat) (h : p.fits = true) :
    (Part.consignorHold p c un con reason).fits = true := by
  simp only [Part.consignorHold]
  (repeat' split) <;> simp (maxDischargeDepth := 40) [fits_mk, fits_writes, fits_cmds, fits_faults, fits_ports, length_modifyAt, *]

@[simp] theorem Part.flushStep_fits (p : Part) (f : Flush) (h : p.fits = true) : (p.flushStep f).fits = true := by
  have hg : ∀ l : List Nat, (l.foldl (fun (q : Part) i => q.removeEntry i) p).fits = true :=
    fun l => foldl_fits _ (fun q b hq => by simp [hq]) _ _ h
  simp only [Part.flushStep]
  split
  · exact Part.finish_fits _ _ (hg _)
  · exact hg _

@[simp] theorem Part.recheckExempt_fits (p : Part) (proposed : ExemptRange) (h : p.fits = true) :
    (Part.recheckExempt p proposed).fits = true := by
  rw [Part.recheckExempt]
  refine foldl_fits _ ?_ _ _ ?_
  · intro q b hq
    (repeat' split) <;> simp [hq]
  · exact h


@[simp] theorem Part.installRange_fits (p : Part) (c n : Nat) (r : ExemptRange) (h : p.fits = true) :
    (Part.installRange p c n r).fits = true := by
  simp only [Part.installRange]
  (repeat' split) <;> simp (maxDischargeDepth := 40) [fits_mk, fits_writes, fits_cmds, fits_faults, fits_ports, length_modifyAt, *]

@[simp] theorem Part.rangeFrom_fits (p : Part) (rc : RangeCheck) (consignor lot : Nat) (h : p.fits = true) :
    (Part.rangeFrom p rc consignor lot).fits = true := by
  simp only [Part.rangeFrom]
  (repeat' split) <;> simp (maxDischargeDepth := 40) [fits_mk, fits_writes, fits_cmds, fits_faults, fits_ports, length_modifyAt, *]

@[simp] theorem Part.rangeRead_fits (p : Part) (rc : RangeCheck) (e : BranchEntry) (h : p.fits = true) :
    (Part.rangeRead p rc e).fits = true := by
  simp only [Part.rangeRead]
  (repeat' split) <;> simp (maxDischargeDepth := 40) [fits_mk, fits_writes, fits_cmds, fits_faults, fits_ports, length_modifyAt, *]

@[simp] theorem Part.restartRead_fits (p : Part) (client : ReadClient) (h : p.fits = true) :
    (Part.restartRead p client).fits = true := by
  simp only [Part.restartRead]
  (repeat' split) <;> simp (maxDischargeDepth := 40) [fits_mk, fits_writes, fits_cmds, fits_faults, fits_ports, length_modifyAt, *]

@[simp] theorem Part.abandonBlock_fits (p : Part) (b : Nat) (h : p.fits = true) : (p.abandonBlock b).fits = true := by
  simp only [Part.abandonBlock]
  exact foldl_fits _ (fun q cl hq => Part.makeProbes_fits _ (Part.restartRead_fits q cl hq)) _ _ h

@[simp] theorem Part.blockFor_fits (p : Part) (b : Option Nat) (h : p.fits = true) :
    (p.blockFor b).2.fits = true := by
  simp only [Part.blockFor]
  (repeat' split) <;> exact h

theorem Part.slotFor_fits {p : Part} {a : Option Nat} {s : Nat} {q : Part} (e : p.slotFor a = some (s, q))
    (h : p.fits = true) : q.fits = true := by
  simp only [Part.slotFor] at e
  (repeat' split at e) <;> simp at e <;> (obtain ⟨-, rfl⟩ := e) <;> exact h

@[simp] theorem Part.placeEntry_fits (p : Part) (c : Nat) (k : Key) (entry : LeafEntry) (h : p.fits = true) :
    (p.placeEntry c k entry).fits = true := by
  simp only [Part.placeEntry]
  (repeat' split) <;> simp (maxDischargeDepth := 40) [h]

theorem Part.entryInsertion_fits {p : Part} {c : Nat} {k : Key} {a : Option Nat} {s : Nat} {q : Part}
    (e : p.entryInsertion c k a = .ok (s, q)) (h : p.fits = true) : q.fits = true := by
  simp only [Part.entryInsertion] at e
  split at e
  · simp at e
  · cases hs : p.slotFor a with
    | none => simp [hs] at e
    | some r =>
      obtain ⟨s', q'⟩ := r
      rw [hs] at e
      dsimp only at e
      (repeat' split at e) <;> first
        | (simp at e; done)
        | (simp only [Except.ok.injEq, Prod.mk.injEq] at e
           obtain ⟨-, rfl⟩ := e
           exact Part.placeEntry_fits _ _ _ _ (Part.slotFor_fits hs h))

@[simp] theorem Part.entryRemoval_fits (p : Part) (c : Option Nat) (k : Key) (h : p.fits = true) :
    (Part.entryRemoval p c k).fits = true := by
  simp only [Part.entryRemoval]
  (repeat' split) <;> simp (maxDischargeDepth := 40) [fits_mk, fits_writes, fits_cmds, fits_faults, fits_ports, length_modifyAt, *]

@[simp] theorem Part.removeEntryOf_fits (p : Part) (c : Option Nat) (slot : Nat) (k : Key) (h : p.fits = true) :
    (p.removeEntryOf c slot k).fits = true :=
  ite_fits (Part.entryRemoval_fits p c k h) h

@[simp] theorem Part.giveReleased_fits (p : Part) (r : CarrierRecord) (cause : ReleaseCause) (holder : Option Checkout)
    (reason : Option Nat) (h : p.fits = true) : (p.giveReleased r cause holder reason).fits = true :=
  foldl_fits _ (fun q b hq => by simp [hq]) _ _ h

@[simp] theorem Part.releaseRecord_fits (p : Part) (c : Option Nat) (slot : Nat) (r : CarrierRecord) (cause : ReleaseCause) (reason : Option Nat) (h : p.fits = true) :
    (Part.releaseRecord p c slot r cause reason).fits = true := by
  simp only [Part.releaseRecord]
  (repeat' split) <;> simp (maxDischargeDepth := 40) [fits_mk, fits_writes, fits_cmds, fits_faults, fits_ports, length_modifyAt, *]

@[simp] theorem Part.askTurn_fits (p : Part) (o : UpdateOwner) (h : p.fits = true) :
    (Part.askTurn p o).fits = true := by
  simp only [Part.askTurn]
  (repeat' split) <;> simp (maxDischargeDepth := 40) [fits_mk, fits_writes, fits_cmds, fits_faults, fits_ports, length_modifyAt, *]

@[simp] theorem Part.enrollAct_fits (p : Part) (c : Nat) (k : Key) (cls : Nat) (exposure bakes : Option Nat)
    (h : p.fits = true) : (p.enrollAct c k cls exposure bakes).fits = true := by
  simp only [Part.enrollAct]
  split
  · simp [h]
  · rename_i e
    have hq := Part.entryInsertion_fits e h
    simp (maxDischargeDepth := 40) [hq]

@[simp] theorem Part.relabelAct_fits (p : Part) (c : Nat) (x : Context) (new : Key) (h : p.fits = true) :
    (p.relabelAct c x new).fits = true := by
  simp only [Part.relabelAct]
  split
  · exact h
  · split
    · simp [h]
    · rename_i e
      have hq := Part.entryInsertion_fits e h
      simp (maxDischargeDepth := 40) [hq]

@[simp] theorem Part.retireAct_fits (p : Part) (c : Nat) (x : Context) (reason : Nat) (h : p.fits = true) :
    (p.retireAct c x reason).fits = true := by
  simp only [Part.retireAct]
  split
  · exact h
  · rename_i s r e
    have hf : ∀ (l : List Key) (q : Part), q.fits = true →
        (l.foldl (fun (q : Part) k => q.removeEntryOf (some c) s k) q).fits = true :=
      fun l q hq => foldl_fits _ (fun q b hq => by simp [hq]) _ _ hq
    split <;> simp (maxDischargeDepth := 40) [h, hf]

@[simp] theorem Part.forceRetireAct_fits (p : Part) (c : Nat) (s : Nat) (h : p.fits = true) :
    (p.forceRetireAct c s).fits = true := by
  have hf : ({ p with engine.faults := p.engine.faults.filter fun g => g.slot != s } : Part).fits = true := by
    rw [fits_mk]
    exact ⟨fits_writes h, fits_cmds h, Nat.le_trans (List.length_filter_le _ _) (fits_faults h), fits_ports h⟩
  simp only [Part.forceRetireAct]
  generalize ({ p with engine.faults := p.engine.faults.filter fun g => g.slot != s } : Part) = q at hf ⊢
  (repeat' split) <;> simp (maxDischargeDepth := 40) [fits_mk, fits_writes, fits_cmds, fits_faults, fits_ports, h, hf]

@[simp] theorem Part.updateAct_fits (p : Part) (o : UpdateOwner) (h : p.fits = true) :
    (Part.updateAct p o).fits = true := by
  simp only [Part.updateAct]
  (repeat' split) <;> simp (maxDischargeDepth := 40) [fits_mk, fits_writes, fits_cmds, fits_faults, fits_ports, length_modifyAt, *]

@[simp] theorem Part.grantTurn_fits (p : Part) (h : p.fits = true) : (Part.grantTurn p).fits = true := by
  simp only [Part.grantTurn]
  (repeat' split) <;> simp (maxDischargeDepth := 40) [fits_mk, fits_writes, fits_cmds, fits_faults, fits_ports, length_modifyAt, *]

@[simp] theorem Part.updateRead_fits (p : Part) (h : p.fits = true) : (Part.updateRead p).fits = true := by
  simp only [Part.updateRead]
  (repeat' split) <;> simp (maxDischargeDepth := 40) [fits_mk, fits_writes, fits_cmds, fits_faults, fits_ports, length_modifyAt, *]

/-! ### Machine/ZoneOps.lean -/

@[simp] theorem Part.issueAdvance_fits (p : Part) (h : p.fits = true) : (Part.issueAdvance p).fits = true := by
  simp only [Part.issueAdvance]
  (repeat' split) <;> simp (maxDischargeDepth := 40) [fits_mk, fits_writes, fits_cmds, fits_faults, fits_ports, length_modifyAt, *]

@[simp] theorem Part.advanceWhenDone_fits (p : Part) (h : p.fits = true) : (Part.advanceWhenDone p).fits = true := by
  simp only [Part.advanceWhenDone]
  (repeat' split) <;> simp (maxDischargeDepth := 40) [fits_mk, fits_writes, fits_cmds, fits_faults, fits_ports, length_modifyAt, *]

@[simp] theorem Part.setTimer_fits (p : Part) (t : Nat) (v : Option BakeTimer) (h : p.fits = true) :
    (Part.setTimer p t v).fits = true := by
  simp only [Part.setTimer]
  (repeat' split) <;> simp (maxDischargeDepth := 40) [fits_mk, fits_writes, fits_cmds, fits_faults, fits_ports, length_modifyAt, *]

@[simp] theorem Part.abortBake_fits (p : Part) (z : Nat) (cause : BakeAbortCause) (h : p.fits = true) :
    (Part.abortBake p z cause).fits = true := by
  simp only [Part.abortBake]
  (repeat' split) <;> simp (maxDischargeDepth := 40) [fits_mk, fits_writes, fits_cmds, fits_faults, fits_ports, length_modifyAt, *]

@[simp] theorem Part.enterTrip_fits (p : Part) (z : Nat) (cause : TripCause) (h : p.fits = true) :
    (Part.enterTrip p z cause).fits = true := by
  simp only [Part.enterTrip]
  (repeat' split) <;> simp (maxDischargeDepth := 40) [fits_mk, fits_writes, fits_cmds, fits_faults, fits_ports, length_modifyAt, *]

@[simp] theorem Part.zoneEvent_fits (p : Part) (z : Nat) (cause : TripCause) (f : Zone → Zone) (h : p.fits = true) :
    (Part.zoneEvent p z cause f).fits = true := by
  simp only [Part.zoneEvent]
  (repeat' split) <;> simp (maxDischargeDepth := 40) [fits_mk, fits_writes, fits_cmds, fits_faults, fits_ports, length_modifyAt, *]

@[simp] theorem Part.lineChange_fits (p : Part) (z : Nat) (asserted : Bool) (h : p.fits = true) :
    (Part.lineChange p z asserted).fits = true := by
  simp only [Part.lineChange]
  (repeat' split) <;> simp (maxDischargeDepth := 40) [fits_mk, fits_writes, fits_cmds, fits_faults, fits_ports, length_modifyAt, *]

@[simp] theorem Part.applyPendings_fits (p : Part) (h : p.fits = true) : (Part.applyPendings p).fits = true := by
  simp only [Part.applyPendings]
  (repeat' split) <;> simp (maxDischargeDepth := 40) [fits_mk, fits_writes, fits_cmds, fits_faults, fits_ports, length_modifyAt, *]

@[simp] theorem Part.staleRefresh_fits (p : Part) (minute z : Nat) (h : p.fits = true) :
    (Part.staleRefresh p minute z).fits = true := by
  simp only [Part.staleRefresh]
  (repeat' split) <;> simp (maxDischargeDepth := 40) [fits_mk, fits_writes, fits_cmds, fits_faults, fits_ports, length_modifyAt, *]

@[simp] theorem Part.countDown_fits (p : Part) (before : Bake) (h : p.fits = true) :
    (Part.countDown p before).fits = true := by
  simp only [Part.countDown]
  (repeat' split) <;> simp (maxDischargeDepth := 40) [fits_mk, fits_writes, fits_cmds, fits_faults, fits_ports, length_modifyAt, *]

@[simp] theorem Part.workZone_fits (p : Part) (minute z : Nat) (h : p.fits = true) :
    (Part.workZone p minute z).fits = true := by
  simp only [Part.workZone]
  (repeat' split) <;> simp (maxDischargeDepth := 40) [fits_mk, fits_writes, fits_cmds, fits_faults, fits_ports, length_modifyAt, *]

@[simp] theorem Part.zoneWork_fits (p : Part) (minute : Nat) (h : p.fits = true) :
    (p.zoneWork minute).fits = true := by
  have hf : ((List.range Config.numZones).foldl (fun (q : Part) z => q.workZone minute z) p.fixZoneWrites.applyPendings).fits = true :=
    foldl_fits _ (fun q z hq => Part.workZone_fits q minute z hq) _ _
      (Part.applyPendings_fits _ (Part.fixZoneWrites_fits p h))
  simp only [Part.zoneWork]
  apply Part.advanceWhenDone_fits
  rw [fits_mk]
  exact ⟨fits_writes hf, fits_cmds hf, fits_faults hf, fits_ports hf⟩

@[simp] theorem Part.oweTick_fits (p : Part) (h : p.fits = true) : (Part.oweTick p).fits = true := by
  simp only [Part.oweTick]
  (repeat' split) <;> simp (maxDischargeDepth := 40) [fits_mk, fits_writes, fits_cmds, fits_faults, fits_ports, length_modifyAt, *]

@[simp] theorem Part.tick_fits (p : Part) (h : p.fits = true) : (Part.tick p).fits = true := by
  simp only [Part.tick]
  (repeat' split) <;> simp (maxDischargeDepth := 40) [fits_mk, fits_writes, fits_cmds, fits_faults, fits_ports, length_modifyAt, *]

@[simp] theorem Part.completeBake_fits (p : Part) (z : Nat) (h : p.fits = true) :
    (Part.completeBake p z).fits = true := by
  simp only [Part.completeBake]
  (repeat' split) <;> simp (maxDischargeDepth := 40) [fits_mk, fits_writes, fits_cmds, fits_faults, fits_ports, length_modifyAt, *]

@[simp] theorem Part.setBusy_fits (p : Part) (l : Nat) (b : Bool) (h : p.fits = true) :
    (Part.setBusy p l b).fits = true := by
  simp only [Part.setBusy]
  (repeat' split) <;> simp (maxDischargeDepth := 40) [fits_mk, fits_writes, fits_cmds, fits_faults, fits_ports, length_modifyAt, *]

@[simp] theorem Part.receiveOrder_fits (p : Part) (o : WalkOrder) (h : p.fits = true) :
    (p.receiveOrder o).fits = true := by
  simp only [Part.receiveOrder]
  refine foldl_fits _ ?_ _ _ h
  intro q b hq
  split <;> simp [hq]

@[simp] theorem Part.makeVisible_fits (p : Part) (area : MeterArea) (h : p.fits = true) :
    (p.makeVisible area).fits = true := by
  simp only [Part.makeVisible]
  exact foldl_fits _ (fun q o hq => Part.receiveOrder_fits q o hq) _ _ h

@[simp] theorem Part.beginOwed_fits (p : Part) (h : p.fits = true) : (Part.beginOwed p).fits = true := by
  simp only [Part.beginOwed]
  (repeat' split) <;> simp (maxDischargeDepth := 40) [fits_mk, fits_writes, fits_cmds, fits_faults, fits_ports, length_modifyAt, *]

@[simp] theorem Part.advanceDone_fits (p : Part) (area : MeterArea) (h : p.fits = true) :
    (Part.advanceDone p area).fits = true := by
  simp only [Part.advanceDone]
  (repeat' split) <;> simp (maxDischargeDepth := 40) [fits_mk, fits_writes, fits_cmds, fits_faults, fits_ports, length_modifyAt, *]

@[simp] theorem Part.gapDone_fits (p : Part) (area : MeterArea) (h : p.fits = true) :
    (Part.gapDone p area).fits = true := by
  simp only [Part.gapDone]
  (repeat' split) <;> simp (maxDischargeDepth := 40) [fits_mk, fits_writes, fits_cmds, fits_faults, fits_ports, length_modifyAt, *]

@[simp] theorem Part.zoneWritten_fits (p : Part) (z : Nat) (r : ZoneRecord) (h : p.fits = true) :
    (Part.zoneWritten p z r).fits = true := by
  simp only [Part.zoneWritten]
  (repeat' split) <;> simp (maxDischargeDepth := 40) [fits_mk, fits_writes, fits_cmds, fits_faults, fits_ports, length_modifyAt, *]

@[simp] theorem Part.beginGap_fits (p : Part) (h : p.fits = true) : (Part.beginGap p).fits = true := by
  simp only [Part.beginGap]
  (repeat' split) <;> simp (maxDischargeDepth := 40) [fits_mk, fits_writes, fits_cmds, fits_faults, fits_ports, length_modifyAt, *]

@[simp] theorem Part.takeClimate_fits (p : Part) (z : Nat) (temperature : Int) (humidity : Nat) (h : p.fits = true) :
    (Part.takeClimate p z temperature humidity).2.2.fits = true := by
  simp only [Part.takeClimate]
  (repeat' split) <;> simp (maxDischargeDepth := 40) [fits_mk, fits_writes, fits_cmds, fits_faults, fits_ports, length_modifyAt, *]

@[simp] theorem Part.takeTrip_fits (p : Part) (z : Nat) (h : p.fits = true) :
    (Part.takeTrip p z).2.2.fits = true := by
  simp only [Part.takeTrip]
  (repeat' split) <;> simp (maxDischargeDepth := 40) [fits_mk, fits_writes, fits_cmds, fits_faults, fits_ports, length_modifyAt, *]

@[simp] theorem Part.takeClearTrip_fits (p : Part) (z : Nat) (h : p.fits = true) :
    (Part.takeClearTrip p z).2.2.fits = true := by
  simp only [Part.takeClearTrip]
  (repeat' split) <;> simp (maxDischargeDepth := 40) [fits_mk, fits_writes, fits_cmds, fits_faults, fits_ports, length_modifyAt, *]

@[simp] theorem Part.takeBakeStart_fits (p : Part) (z minutes : Nat) (h : p.fits = true) :
    (Part.takeBakeStart p z minutes).2.2.fits = true := by
  simp only [Part.takeBakeStart]
  (repeat' split) <;> simp (maxDischargeDepth := 40) [fits_mk, fits_writes, fits_cmds, fits_faults, fits_ports, length_modifyAt, *]

@[simp] theorem Part.takeBakeStop_fits (p : Part) (z : Nat) (h : p.fits = true) :
    (Part.takeBakeStop p z).2.2.fits = true := by
  simp only [Part.takeBakeStop]
  (repeat' split) <;> simp (maxDischargeDepth := 40) [fits_mk, fits_writes, fits_cmds, fits_faults, fits_ports, length_modifyAt, *]

@[simp] theorem Part.takeZoneSet_fits (p : Part) (c z : Nat) (kind capacity fallback stale mode : Option Nat) (h : p.fits = true) :
    (Part.takeZoneSet p c z kind capacity fallback stale mode).2.2.fits = true := by
  simp only [Part.takeZoneSet]
  (repeat' split) <;> simp (maxDischargeDepth := 40) [fits_mk, fits_writes, fits_cmds, fits_faults, fits_ports, length_modifyAt, *]

@[simp] theorem Part.takeReport_fits (p : Part) (r : WalkReport) (h : p.fits = true) :
    (Part.takeReport p r).fits = true := by
  simp only [Part.takeReport]
  (repeat' split) <;> simp (maxDischargeDepth := 40) [fits_mk, fits_writes, fits_cmds, fits_faults, fits_ports, length_modifyAt, *]

/-! ### Machine/DueLists.lean -/

@[simp] theorem Part.giveTallyNotice_fits (p : Part) (kind : NoticeKind) (n : Nat) (r : Resident) (h : p.fits = true) :
    (p.giveTallyNotice kind n r).fits = true := by
  simp only [Part.giveTallyNotice]
  refine foldl_fits _ ?_ _ _ (by simp [h])
  intro q b hq
  split <;> simp [hq]

@[simp] theorem Part.relink_fits (p : Part) (l : Nat) (cmd : Option Nat) (h : p.fits = true) :
    (p.relink l cmd).fits = true := by
  simp only [Part.relink]
  refine foldl_fits _ ?_ _ _ h
  intro q b hq
  (repeat' split) <;> simp [hq]

@[simp] theorem Part.setCursors_fits (p : Part) (l : Nat) (h : p.fits = true) :
    (Part.setCursors p l).fits = true := by
  simp only [Part.setCursors]
  (repeat' split) <;> simp (maxDischargeDepth := 40) [fits_mk, fits_writes, fits_cmds, fits_faults, fits_ports, length_modifyAt, *]

@[simp] theorem Part.expireAt_fits (p : Part) (l n : Nat) (r : Resident) (h : p.fits = true) :
    (Part.expireAt p l n r).fits = true := by
  simp only [Part.expireAt]
  (repeat' split) <;> simp (maxDischargeDepth := 40) [fits_mk, fits_writes, fits_cmds, fits_faults, fits_ports, length_modifyAt, *]

@[simp] theorem Part.warnAt_fits (p : Part) (l n : Nat) (r : Resident) (h : p.fits = true) :
    (Part.warnAt p l n r).fits = true := by
  simp only [Part.warnAt]
  (repeat' split) <;> simp (maxDischargeDepth := 40) [fits_mk, fits_writes, fits_cmds, fits_faults, fits_ports, length_modifyAt, *]

@[simp] theorem Part.expireDue_fits (l m fuel : Nat) (p : Part) (h : p.fits = true) :
    (Part.expireDue l m fuel p).fits = true := by
  induction fuel generalizing p with
  | zero => exact h
  | succ k ih =>
    simp only [Part.expireDue]
    (repeat' split) <;> first | exact h | exact ih _ (by simp [h])

@[simp] theorem Part.warnDue_fits (l m fuel : Nat) (p : Part) (h : p.fits = true) :
    (Part.warnDue l m fuel p).fits = true := by
  induction fuel generalizing p with
  | zero => exact h
  | succ k ih =>
    simp only [Part.warnDue]
    (repeat' split) <;> first | exact h | exact ih _ (by simp [h])

@[simp] theorem Part.bringCurrent_fits (p : Part) (l : Nat) (h : p.fits = true) : (p.bringCurrent l).fits = true :=
  Part.warnDue_fits _ _ _ _ (Part.expireDue_fits _ _ _ _ h)

@[simp] theorem Part.releaseList_fits (p : Part) (l : Nat) (h : p.fits = true) :
    (Part.releaseList p l).fits = true := by
  simp only [Part.releaseList]
  (repeat' split) <;> simp (maxDischargeDepth := 40) [fits_mk, fits_writes, fits_cmds, fits_faults, fits_ports, length_modifyAt, *]

@[simp] theorem Part.takeSeq_fits (p : Part) (h : p.fits = true) : p.takeSeq.2.fits = true := h

@[simp] theorem Part.placeTally_fits (p : Part) (l n m due warn : Nat) (after : Option Nat) (cmd : Option Nat)
    (h : p.fits = true) : (p.placeTally l n m due warn after cmd).fits = true := by
  have hs : p.takeSeq.2.fits = true := h
  simp only [Part.placeTally]
  (repeat' split) <;> first | exact h | simp (maxDischargeDepth := 40) [h]

@[simp] theorem Part.startInsertion_fits (p : Part) (cmd n : Nat) (r : Resident) (h : p.fits = true) :
    (Part.startInsertion p cmd n r).fits = true := by
  simp only [Part.startInsertion]
  (repeat' split) <;> simp (maxDischargeDepth := 40) [fits_mk, fits_writes, fits_cmds, fits_faults, fits_ports, length_modifyAt, *]

@[simp] theorem Part.unlist_fits (p : Part) (n : Nat) (r : Resident) (cmd : Option Nat) (h : p.fits = true) :
    (Part.unlist p n r cmd).fits = true := by
  simp only [Part.unlist]
  (repeat' split) <;> simp (maxDischargeDepth := 40) [fits_mk, fits_writes, fits_cmds, fits_faults, fits_ports, length_modifyAt, *]

@[simp] theorem Part.exhaustTally_fits (p : Part) (n : Nat) (r : Resident) (h : p.fits = true) :
    (Part.exhaustTally p n r).fits = true := by
  simp only [Part.exhaustTally]
  (repeat' split) <;> simp (maxDischargeDepth := 40) [fits_mk, fits_writes, fits_cmds, fits_faults, fits_ports, length_modifyAt, *]

@[simp] theorem Part.resetTally_fits (p : Part) (n : Nat) (r : Resident) (h : p.fits = true) :
    (p.resetTally n r).fits = true := by
  simp only [Part.resetTally]
  exact Part.setTally_fits _ _ _ _ h

@[simp] theorem Part.bakeVisit_fits (p : Part) (b : BakeWalk) (n : Nat) (h : p.fits = true) :
    (p.bakeVisit b n).2.fits = true := by
  simp only [Part.bakeVisit]
  (repeat' split) <;> simp [h]

@[simp] theorem Part.reform_fits (p : Part) (l : Nat) (b : BakeWalk) (h : p.fits = true) :
    (Part.reform p l b).fits = true := by
  simp only [Part.reform]
  (repeat' split) <;> simp (maxDischargeDepth := 40) [fits_mk, fits_writes, fits_cmds, fits_faults, fits_ports, length_modifyAt, *]

@[simp] theorem Part.setBakeWalk_fits (p : Part) (b : BakeWalk) (h : p.fits = true) :
    (Part.setBakeWalk p b).fits = true := by
  simp only [Part.setBakeWalk]
  (repeat' split) <;> simp (maxDischargeDepth := 40) [fits_mk, fits_writes, fits_cmds, fits_faults, fits_ports, length_modifyAt, *]

@[simp] theorem Part.endBakeWalk_fits (p : Part) (b : BakeWalk) (h : p.fits = true) :
    (p.endBakeWalk b).fits = true := by
  have hf : ((zoneLists b.zone).foldl (fun (q : Part) l => q.setBusy l false) p).fits = true :=
    foldl_fits _ (fun q b hq => by simp [hq]) _ _ h
  exact hf

@[simp] theorem Part.bakeListDone_fits (p : Part) (b : BakeWalk) (h : p.fits = true) :
    (Part.bakeListDone p b).fits = true := by
  simp only [Part.bakeListDone]
  (repeat' split) <;> simp (maxDischargeDepth := 40) [fits_mk, fits_writes, fits_cmds, fits_faults, fits_ports, length_modifyAt, *]

@[simp] theorem Part.bakeStep_fits (p : Part) (b : BakeWalk) (h : p.fits = true) : (p.bakeStep b).fits = true := by
  simp only [Part.bakeStep]
  split
  · simp [h]
  · cases b.visit <;> simp only <;> (repeat' split) <;> simp (maxDischargeDepth := 40) [h]

/-! ### Machine/Completion.lean -/

@[simp] theorem Part.memberGone_fits (p : Part) (c b slot : Nat) (h : p.fits = true) :
    (Part.memberGone p c b slot).fits = true := by
  simp only [Part.memberGone]
  (repeat' split) <;> simp (maxDischargeDepth := 40) [fits_mk, fits_writes, fits_cmds, fits_faults, fits_ports, length_modifyAt, *]

@[simp] theorem Part.partMember_fits (p : Part) (c b slot : Nat) (h : p.fits = true) :
    (Part.partMember p c b slot).fits = true := by
  simp only [Part.partMember]
  (repeat' split) <;> simp (maxDischargeDepth := 40) [fits_mk, fits_writes, fits_cmds, fits_faults, fits_ports, length_modifyAt, *]

@[simp] theorem Part.bagFreed_fits (p : Part) (c b : Nat) (h : p.fits = true) :
    (Part.bagFreed p c b).fits = true := by
  simp only [Part.bagFreed]
  (repeat' split) <;> simp (maxDischargeDepth := 40) [fits_mk, fits_writes, fits_cmds, fits_faults, fits_ports, length_modifyAt, *]

@[simp] theorem Part.bagFormed_fits (p : Part) (c b : Nat) (members : List Nat) (h : p.fits = true) :
    (p.bagFormed c b members).fits = true := by
  simp only [Part.bagFormed]
  split
  · exact h
  · exact foldl_fits _ (fun q b hq => by simp [hq]) _ _ (by simp [h])

@[simp] theorem Part.checkoutRead_fits (p : Part) (c : Nat) (x : Context) (station : Nat) (t : Tally) (h : p.fits = true) :
    (Part.checkoutRead p c x station t).fits = true := by
  simp only [Part.checkoutRead]
  (repeat' split) <;> simp (maxDischargeDepth := 40) [fits_mk, fits_writes, fits_cmds, fits_faults, fits_ports, length_modifyAt, *]

@[simp] theorem Part.retirementDone_fits (p : Part) (slot : Nat) (h : p.fits = true) :
    (Part.retirementDone p slot).fits = true := by
  simp only [Part.retirementDone]
  (repeat' split) <;> simp (maxDischargeDepth := 40) [fits_mk, fits_writes, fits_cmds, fits_faults, fits_ports, length_modifyAt, *]

@[simp] theorem Part.enrollDone_fits (p : Part) (c : Nat) (op : TallyOp) (result : Status) (h : p.fits = true) :
    (Part.enrollDone p c op result).fits = true := by
  simp only [Part.enrollDone]
  (repeat' split) <;> simp (maxDischargeDepth := 40) [fits_mk, fits_writes, fits_cmds, fits_faults, fits_ports, length_modifyAt, *]

@[simp] theorem Part.openDone_fits (p : Part) (c : Nat) (keys : List Key) (zone : Nat) (op : TallyOp) (result : Status) (h : p.fits = true) :
    (Part.openDone p c keys zone op result).fits = true := by
  simp only [Part.openDone]
  (repeat' split) <;> simp (maxDischargeDepth := 40) [fits_mk, fits_writes, fits_cmds, fits_faults, fits_ports, length_modifyAt, *]

@[simp] theorem Part.joinDone_fits (p : Part) (c : Nat) (zone : Nat) (op : TallyOp) (result : Status) (h : p.fits = true) :
    (Part.joinDone p c zone op result).fits = true := by
  simp only [Part.joinDone]
  (repeat' split) <;> simp (maxDischargeDepth := 40) [fits_mk, fits_writes, fits_cmds, fits_faults, fits_ports, length_modifyAt, *]

@[simp] theorem Part.moveDone_fits (p : Part) (c : Nat) (k : Key) (zone : Nat) (cmd : TallyCmd) (result : Status) (h : p.fits = true) :
    (Part.moveDone p c k zone cmd result).fits = true := by
  simp only [Part.moveDone]
  (repeat' split) <;> simp (maxDischargeDepth := 40) [fits_mk, fits_writes, fits_cmds, fits_faults, fits_ports, length_modifyAt, *]

@[simp] theorem Part.sealDone_fits (p : Part) (c : Nat) (k : Key) (cmd : TallyCmd) (result : Status) (h : p.fits = true) :
    (Part.sealDone p c k cmd result).fits = true := by
  simp only [Part.sealDone]
  (repeat' split) <;> simp (maxDischargeDepth := 40) [fits_mk, fits_writes, fits_cmds, fits_faults, fits_ports, length_modifyAt, *]

@[simp] theorem Part.retireDone_fits (p : Part) (c : Nat) (x : Context) (op : TallyOp) (result : Status) (h : p.fits = true) :
    (Part.retireDone p c x op result).fits = true := by
  simp only [Part.retireDone]
  (repeat' split) <;> simp (maxDischargeDepth := 40) [fits_mk, fits_writes, fits_cmds, fits_faults, fits_ports, length_modifyAt, *]

@[simp] theorem Part.forceRetireDone_fits (p : Part) (c : Nat) (x : Context) (op : TallyOp) (result : Status) (h : p.fits = true) :
    (Part.forceRetireDone p c x op result).fits = true := by
  simp only [Part.forceRetireDone]
  (repeat' split) <;> simp (maxDischargeDepth := 40) [fits_mk, fits_writes, fits_cmds, fits_faults, fits_ports, length_modifyAt, *]

@[simp] theorem Part.moveGroupDone_fits (p : Part) (c b zone : Nat) (x : Context) (op : TallyOp) (result : Status) (h : p.fits = true) :
    (Part.moveGroupDone p c b zone x op result).fits = true := by
  simp only [Part.moveGroupDone]
  (repeat' split) <;> simp (maxDischargeDepth := 40) [fits_mk, fits_writes, fits_cmds, fits_faults, fits_ports, length_modifyAt, *]

@[simp] theorem Part.afterCommand_fits (p : Part) (c : Nat) (x : Context) (cmd : TallyCmd) (result : Status) (page : DuePage) (h : p.fits = true) :
    (Part.afterCommand p c x cmd result page).fits = true := by
  simp only [Part.afterCommand]
  (repeat' split) <;> simp (maxDischargeDepth := 40) [fits_mk, fits_writes, fits_cmds, fits_faults, fits_ports, length_modifyAt, *]

@[simp] theorem Part.completeCommand_fits (p : Part) (cmd : TallyCmd) (result : Status) (page : DuePage)
    (h : p.fits = true) : (p.completeCommand cmd result page).fits = true := by
  have hf : ({ p with tally.queue := p.tally.queue.filter fun (d : TallyCmd) => d.id != cmd.id } : Part).fits = true := by
    rw [fits_mk]
    exact ⟨fits_writes h, Nat.le_trans (List.length_filter_le _ _) (fits_cmds h), fits_faults h, fits_ports h⟩
  simp only [Part.completeCommand]
  split <;> simp (maxDischargeDepth := 40) [hf]

/-! ### Machine/TallyUnit.lean -/

@[simp] theorem Part.serveMark_fits (p : Part) (l : Nat) (h : p.fits = true) : (Part.serveMark p l).fits = true := by
  simp only [Part.serveMark]
  (repeat' split) <;> simp (maxDischargeDepth := 40) [fits_mk, fits_writes, fits_cmds, fits_faults, fits_ports, length_modifyAt, *]

@[simp] theorem Part.addOccupancy_fits (p : Part) (z n : Nat) (h : p.fits = true) :
    (Part.addOccupancy p z n).fits = true := by
  simp only [Part.addOccupancy]
  (repeat' split) <;> simp (maxDischargeDepth := 40) [fits_mk, fits_writes, fits_cmds, fits_faults, fits_ports, length_modifyAt, *]

@[simp] theorem Part.subOccupancy_fits (p : Part) (z n : Nat) (h : p.fits = true) :
    (Part.subOccupancy p z n).fits = true := by
  simp only [Part.subOccupancy]
  (repeat' split) <;> simp (maxDischargeDepth := 40) [fits_mk, fits_writes, fits_cmds, fits_faults, fits_ports, length_modifyAt, *]

@[simp] theorem Part.addUse_fits (p : Part) (cls : Nat) (h : p.fits = true) : (Part.addUse p cls).fits = true := by
  simp only [Part.addUse]
  (repeat' split) <;> simp (maxDischargeDepth := 40) [fits_mk, fits_writes, fits_cmds, fits_faults, fits_ports, length_modifyAt, *]

@[simp] theorem Part.subUse_fits (p : Part) (cls : Nat) (h : p.fits = true) : (Part.subUse p cls).fits = true := by
  simp only [Part.subUse]
  (repeat' split) <;> simp (maxDischargeDepth := 40) [fits_mk, fits_writes, fits_cmds, fits_faults, fits_ports, length_modifyAt, *]

@[simp] theorem Part.setCmd_fits (p : Part) (id : Nat) (f : TallyCmd → TallyCmd) (h : p.fits = true) :
    (Part.setCmd p id f).fits = true := by
  simp only [Part.setCmd]
  (repeat' split) <;> simp (maxDischargeDepth := 40) [fits_mk, fits_writes, fits_cmds, fits_faults, fits_ports, length_modifyAt, *]

@[simp] theorem Part.finishCommand_fits (p : Part) (id : Nat) (h : p.fits = true) :
    (Part.finishCommand p id).fits = true := by
  simp only [Part.finishCommand]
  (repeat' split) <;> simp (maxDischargeDepth := 40) [fits_mk, fits_writes, fits_cmds, fits_faults, fits_ports, length_modifyAt, *]

@[simp] theorem Part.insertOrFinish_fits (p : Part) (id n : Nat) (r : Resident) (h : p.fits = true) :
    (Part.insertOrFinish p id n r).fits = true := by
  simp only [Part.insertOrFinish]
  (repeat' split) <;> simp (maxDischargeDepth := 40) [fits_mk, fits_writes, fits_cmds, fits_faults, fits_ports, length_modifyAt, *]

@[simp] theorem Part.bringListed_fits (p : Part) (zone cls : Nat) (h : p.fits = true) :
    (Part.bringListed p zone cls).fits = true := by
  simp only [Part.bringListed]
  (repeat' split) <;> simp (maxDischargeDepth := 40) [fits_mk, fits_writes, fits_cmds, fits_faults, fits_ports, length_modifyAt, *]

@[simp] theorem Part.moveOn_fits (p : Part) (id n : Nat) (r : Resident) (z : Nat) (h : p.fits = true) :
    (Part.moveOn p id n r z).fits = true := by
  simp only [Part.moveOn]
  (repeat' split) <;> simp (maxDischargeDepth := 40) [fits_mk, fits_writes, fits_cmds, fits_faults, fits_ports, length_modifyAt, *]

@[simp] theorem Part.takeCreate_fits (p : Part) (id n : Nat) (k : Key) (cls exposure bakes : Nat) (h : p.fits = true) :
    (Part.takeCreate p id n k cls exposure bakes).fits = true := by
  simp only [Part.takeCreate]
  (repeat' split) <;> simp (maxDischargeDepth := 40) [fits_mk, fits_writes, fits_cmds, fits_faults, fits_ports, length_modifyAt, *]

@[simp] theorem Part.takeArm_fits (p : Part) (id n z : Nat) (h : p.fits = true) :
    (Part.takeArm p id n z).fits = true := by
  simp only [Part.takeArm]
  (repeat' split) <;> simp (maxDischargeDepth := 40) [fits_mk, fits_writes, fits_cmds, fits_faults, fits_ports, length_modifyAt, *]

@[simp] theorem Part.takeMove_fits (p : Part) (id n z : Nat) (h : p.fits = true) :
    (Part.takeMove p id n z).fits = true := by
  simp only [Part.takeMove]
  (repeat' split) <;> simp (maxDischargeDepth := 40) [fits_mk, fits_writes, fits_cmds, fits_faults, fits_ports, length_modifyAt, *]

@[simp] theorem Part.takeSeal_fits (p : Part) (id n : Nat) (h : p.fits = true) :
    (Part.takeSeal p id n).fits = true := by
  simp only [Part.takeSeal]
  (repeat' split) <;> simp (maxDischargeDepth := 40) [fits_mk, fits_writes, fits_cmds, fits_faults, fits_ports, length_modifyAt, *]

@[simp] theorem Part.takeJoin_fits (p : Part) (id bag : Nat) (ms : List Nat) (z : Nat) (h : p.fits = true) :
    (p.takeJoin id bag ms z).fits = true := by
  simp only [Part.takeJoin]
  refine Part.insertOrFinish_fits _ _ _ _ (Part.addOccupancy_fits _ _ _ (foldl_fits _ ?_ _ _ (by simp [h])))
  intro q b hq
  split <;> simp [hq]

@[simp] theorem Part.placeSplit_fits (p : Part) (id n : Nat) (r : Resident) (h : p.fits = true) :
    (p.placeSplit id n r).fits = true := by
  simp only [Part.placeSplit]
  split
  · simp [h]
  · exact Part.setList_fits _ _ _ (Part.setTally_fits _ _ _ _ h)

@[simp] theorem Part.takeSplit_fits (p : Part) (id bag n : Nat) (z : Option Nat) (h : p.fits = true) :
    (Part.takeSplit p id bag n z).fits = true := by
  simp only [Part.takeSplit]
  (repeat' split) <;> simp (maxDischargeDepth := 40) [fits_mk, fits_writes, fits_cmds, fits_faults, fits_ports, length_modifyAt, *]

@[simp] theorem Part.takeLeave_fits (p : Part) (id n bag : Nat) (h : p.fits = true) :
    (Part.takeLeave p id n bag).fits = true := by
  simp only [Part.takeLeave]
  (repeat' split) <;> simp (maxDischargeDepth := 40) [fits_mk, fits_writes, fits_cmds, fits_faults, fits_ports, length_modifyAt, *]

@[simp] theorem Part.takeFree_fits (p : Part) (id n : Nat) (h : p.fits = true) :
    (Part.takeFree p id n).fits = true := by
  simp only [Part.takeFree]
  (repeat' split) <;> simp (maxDischargeDepth := 40) [fits_mk, fits_writes, fits_cmds, fits_faults, fits_ports, length_modifyAt, *]

@[simp] theorem Part.takeRead_fits (p : Part) (id n : Nat) (h : p.fits = true) :
    (Part.takeRead p id n).fits = true := by
  simp only [Part.takeRead]
  (repeat' split) <;> simp (maxDischargeDepth := 40) [fits_mk, fits_writes, fits_cmds, fits_faults, fits_ports, length_modifyAt, *]

@[simp] theorem Part.takeListDue_fits (p : Part) (id z cls skip want : Nat) (h : p.fits = true) :
    (Part.takeListDue p id z cls skip want).fits = true := by
  simp only [Part.takeListDue]
  (repeat' split) <;> simp (maxDischargeDepth := 40) [fits_mk, fits_writes, fits_cmds, fits_faults, fits_ports, length_modifyAt, *]

theorem Part.takeCommand_fits (p : Part) (c : TallyCmd) (work : Part → Part)
    (hw : ∀ q, q.fits = true → (work q).fits = true) (h : p.fits = true) : (p.takeCommand c work).fits = true := by
  have hs : (({ p with tally.lastSource := .commands } : Part).setCmd c.id fun d => { d with taken := true }).fits = true :=
    Part.setCmd_fits _ _ _ h
  simp only [Part.takeCommand]
  split
  · exact Part.completeCommand_fits _ _ _ _ hs
  · exact hw _ hs

@[simp] theorem Part.insertionStep_fits (p : Part) (l cmd n m due warn : Nat) (pos : Option Nat) (h : p.fits = true) :
    (Part.insertionStep p l cmd n m due warn pos).fits = true := by
  simp only [Part.insertionStep]
  (repeat' split) <;> simp (maxDischargeDepth := 40) [fits_mk, fits_writes, fits_cmds, fits_faults, fits_ports, length_modifyAt, *]

@[simp] theorem Part.endListDue_fits (p : Part) (l id : Nat) (page : DuePage) (h : p.fits = true) :
    (Part.endListDue p l id page).fits = true := by
  simp only [Part.endListDue]
  (repeat' split) <;> simp (maxDischargeDepth := 40) [fits_mk, fits_writes, fits_cmds, fits_faults, fits_ports, length_modifyAt, *]

@[simp] theorem Part.listDueStep_fits (p : Part) (l id skip want : Nat) (rest : List Nat) (page : DuePage) (h : p.fits = true) :
    (Part.listDueStep p l id skip want rest page).fits = true := by
  simp only [Part.listDueStep]
  (repeat' split) <;> simp (maxDischargeDepth := 40) [fits_mk, fits_writes, fits_cmds, fits_faults, fits_ports, length_modifyAt, *]

@[simp] theorem Part.tallyWritten_fits (p : Part) (h : p.fits = true) : (Part.tallyWritten p).fits = true := by
  simp only [Part.tallyWritten]
  (repeat' split) <;> simp (maxDischargeDepth := 40) [fits_mk, fits_writes, fits_cmds, fits_faults, fits_ports, length_modifyAt, *]

/-! ### Machine/CarrierRequests.lean -/

theorem performEnroll_fits (c : Nat) (p : Part) (x : Context) (h : p.fits = true) :
    ∀ q, performEnroll c p x = some q → q.fits = true := by
  intro q e
  simp only [performEnroll] at e
  (repeat' split at e) <;> first | (cases e; simp (maxDischargeDepth := 40) [fits_mk, fits_writes, fits_cmds, fits_faults, fits_ports, length_modifyAt, h]; done) | (simp at e; done)

@[simp] theorem Part.readAccount_fits (p : Part) (c : Nat) (e : CacheEntry) (h : p.fits = true) :
    (Part.readAccount p c e).fits = true := by
  simp only [Part.readAccount]
  (repeat' split) <;> simp (maxDischargeDepth := 40) [fits_mk, fits_writes, fits_cmds, fits_faults, fits_ports, length_modifyAt, *]

theorem performLookup_fits (c : Nat) (p : Part) (x : Context) (h : p.fits = true) :
    ∀ q, performLookup c p x = some q → q.fits = true := by
  intro q e
  simp only [performLookup] at e
  (repeat' split at e) <;> first | (cases e; simp (maxDischargeDepth := 40) [fits_mk, fits_writes, fits_cmds, fits_faults, fits_ports, length_modifyAt, h]; done) | (simp at e; done)

theorem performVerify_fits (c : Nat) (p : Part) (x : Context) (h : p.fits = true) :
    ∀ q, performVerify c p x = some q → q.fits = true := by
  intro q e
  simp only [performVerify] at e
  (repeat' split at e) <;> first | (cases e; simp (maxDischargeDepth := 40) [fits_mk, fits_writes, fits_cmds, fits_faults, fits_ports, length_modifyAt, h]; done) | (simp at e; done)

theorem performOpenOne_fits (c : Nat) (p : Part) (x : Context) (h : p.fits = true) :
    ∀ q, performOpenOne c p x = some q → q.fits = true := by
  intro q e
  simp only [performOpenOne] at e
  (repeat' split at e) <;> first | (cases e; simp (maxDischargeDepth := 40) [fits_mk, fits_writes, fits_cmds, fits_faults, fits_ports, length_modifyAt, h]; done) | (simp at e; done)

theorem performMultiOpen_fits (c : Nat) (p : Part) (x : Context) (h : p.fits = true) :
    ∀ q, performMultiOpen c p x = some q → q.fits = true := by
  intro q e
  simp only [performMultiOpen] at e
  (repeat' split at e) <;> first | (cases e; simp (maxDischargeDepth := 40) [fits_mk, fits_writes, fits_cmds, fits_faults, fits_ports, length_modifyAt, h]; done) | (simp at e; done)

theorem performMove_fits (c : Nat) (p : Part) (x : Context) (h : p.fits = true) :
    ∀ q, performMove c p x = some q → q.fits = true := by
  intro q e
  simp only [performMove] at e
  (repeat' split at e) <;> first | (cases e; simp (maxDischargeDepth := 40) [fits_mk, fits_writes, fits_cmds, fits_faults, fits_ports, length_modifyAt, h]; done) | (simp at e; done)

theorem performSeal_fits (c : Nat) (p : Part) (x : Context) (h : p.fits = true) :
    ∀ q, performSeal c p x = some q → q.fits = true := by
  intro q e
  simp only [performSeal] at e
  (repeat' split at e) <;> first | (cases e; simp (maxDischargeDepth := 40) [fits_mk, fits_writes, fits_cmds, fits_faults, fits_ports, length_modifyAt, h]; done) | (simp at e; done)

theorem performRetire_fits (c : Nat) (p : Part) (x : Context) (h : p.fits = true) :
    ∀ q, performRetire c p x = some q → q.fits = true := by
  intro q e
  simp only [performRetire] at e
  (repeat' split at e) <;> first | (cases e; simp (maxDischargeDepth := 40) [fits_mk, fits_writes, fits_cmds, fits_faults, fits_ports, length_modifyAt, h]; done) | (simp at e; done)

theorem performRelabel_fits (c : Nat) (p : Part) (x : Context) (h : p.fits = true) :
    ∀ q, performRelabel c p x = some q → q.fits = true := by
  intro q e
  simp only [performRelabel] at e
  (repeat' split at e) <;> first | (cases e; simp (maxDischargeDepth := 40) [fits_mk, fits_writes, fits_cmds, fits_faults, fits_ports, length_modifyAt, h]; done) | (simp at e; done)

@[simp] theorem Part.checkoutHeld_fits (p : Part) (c : Nat) (x : Context) (e : CacheEntry) (i : Nat) (co : Checkout) (station watch : Nat) (h : p.fits = true) :
    (Part.checkoutHeld p c x e i co station watch).fits = true := by
  simp only [Part.checkoutHeld]
  (repeat' split) <;> simp (maxDischargeDepth := 40) [fits_mk, fits_writes, fits_cmds, fits_faults, fits_ports, length_modifyAt, *]

theorem performCheckout_fits (c : Nat) (p : Part) (x : Context) (h : p.fits = true) :
    ∀ q, performCheckout c p x = some q → q.fits = true := by
  intro q e
  simp only [performCheckout] at e
  (repeat' split at e) <;> first | (cases e; simp (maxDischargeDepth := 40) [fits_mk, fits_writes, fits_cmds, fits_faults, fits_ports, length_modifyAt, h]; done) | (simp at e; done)

theorem performRelease_fits (c : Nat) (p : Part) (x : Context) (h : p.fits = true) :
    ∀ q, performRelease c p x = some q → q.fits = true := by
  intro q e
  simp only [performRelease] at e
  (repeat' split at e) <;> first | (cases e; simp (maxDischargeDepth := 40) [fits_mk, fits_writes, fits_cmds, fits_faults, fits_ports, length_modifyAt, h]; done) | (simp at e; done)

@[simp] theorem Part.moveGroup_fits (p : Part) (c : Nat) (x : Context) (b z : Nat) (es : List CacheEntry) (h : p.fits = true) :
    (Part.moveGroup p c x b z es).fits = true := by
  simp only [Part.moveGroup]
  (repeat' split) <;> simp (maxDischargeDepth := 40) [fits_mk, fits_writes, fits_cmds, fits_faults, fits_ports, length_modifyAt, *]

theorem performMoveGroup_fits (c : Nat) (p : Part) (x : Context) (h : p.fits = true) :
    ∀ q, performMoveGroup c p x = some q → q.fits = true := by
  intro q e
  simp only [performMoveGroup] at e
  (repeat' split at e) <;> first | (cases e; simp (maxDischargeDepth := 40) [fits_mk, fits_writes, fits_cmds, fits_faults, fits_ports, length_modifyAt, h]; done) | (simp at e; done)

theorem performListBag_fits (c : Nat) (p : Part) (x : Context) (h : p.fits = true) :
    ∀ q, performListBag c p x = some q → q.fits = true := by
  intro q e
  simp only [performListBag] at e
  (repeat' split at e) <;> first | (cases e; simp (maxDischargeDepth := 40) [fits_mk, fits_writes, fits_cmds, fits_faults, fits_ports, length_modifyAt, h]; done) | (simp at e; done)

theorem performListDue_fits (c : Nat) (p : Part) (x : Context) (h : p.fits = true) :
    ∀ q, performListDue c p x = some q → q.fits = true := by
  intro q e
  simp only [performListDue] at e
  (repeat' split at e) <;> first | (cases e; simp (maxDischargeDepth := 40) [fits_mk, fits_writes, fits_cmds, fits_faults, fits_ports, length_modifyAt, h]; done) | (simp at e; done)

theorem performListCheckouts_fits (c : Nat) (p : Part) (x : Context) (h : p.fits = true) :
    ∀ q, performListCheckouts c p x = some q → q.fits = true := by
  intro q e
  simp only [performListCheckouts] at e
  (repeat' split at e) <;> first | (cases e; simp (maxDischargeDepth := 40) [fits_mk, fits_writes, fits_cmds, fits_faults, fits_ports, length_modifyAt, h]; done) | (simp at e; done)

@[simp] theorem Part.carrierHold_fits (p : Part) (c : Nat) (x : Context) (un : Bool) (k : Key) (reason : Nat) (h : p.fits = true) :
    (Part.carrierHold p c x un k reason).fits = true := by
  simp only [Part.carrierHold]
  (repeat' split) <;> simp (maxDischargeDepth := 40) [fits_mk, fits_writes, fits_cmds, fits_faults, fits_ports, length_modifyAt, *]

@[simp] theorem Part.bagHold_fits (p : Part) (c : Nat) (un : Bool) (b reason : Nat) (h : p.fits = true) :
    (Part.bagHold p c un b reason).fits = true := by
  simp only [Part.bagHold]
  (repeat' split) <;> simp (maxDischargeDepth := 40) [fits_mk, fits_writes, fits_cmds, fits_faults, fits_ports, length_modifyAt, *]

@[simp] theorem Part.lotHold_fits (p : Part) (c con lot : Nat) (h : p.fits = true) :
    (Part.lotHold p c con lot).fits = true := by
  simp only [Part.lotHold]
  (repeat' split) <;> simp (maxDischargeDepth := 40) [fits_mk, fits_writes, fits_cmds, fits_faults, fits_ports, length_modifyAt, *]

theorem performHoldCarrier_fits (c : Nat) (p : Part) (x : Context) (h : p.fits = true) :
    ∀ q, performHoldCarrier c p x = some q → q.fits = true := by
  intro q e
  simp only [performHoldCarrier] at e
  (repeat' split at e) <;> first | (cases e; simp (maxDischargeDepth := 40) [fits_mk, fits_writes, fits_cmds, fits_faults, fits_ports, length_modifyAt, h]; done) | (simp at e; done)

theorem performHoldBag_fits (c : Nat) (p : Part) (x : Context) (h : p.fits = true) :
    ∀ q, performHoldBag c p x = some q → q.fits = true := by
  intro q e
  simp only [performHoldBag] at e
  (repeat' split at e) <;> first | (cases e; simp (maxDischargeDepth := 40) [fits_mk, fits_writes, fits_cmds, fits_faults, fits_ports, length_modifyAt, h]; done) | (simp at e; done)

theorem performHoldLot_fits (c : Nat) (p : Part) (x : Context) (h : p.fits = true) :
    ∀ q, performHoldLot c p x = some q → q.fits = true := by
  intro q e
  simp only [performHoldLot] at e
  (repeat' split at e) <;> first | (cases e; simp (maxDischargeDepth := 40) [fits_mk, fits_writes, fits_cmds, fits_faults, fits_ports, length_modifyAt, h]; done) | (simp at e; done)

theorem performHoldConsignor_fits (c : Nat) (p : Part) (x : Context) (h : p.fits = true) :
    ∀ q, performHoldConsignor c p x = some q → q.fits = true := by
  intro q e
  simp only [performHoldConsignor] at e
  (repeat' split at e) <;> first | (cases e; simp (maxDischargeDepth := 40) [fits_mk, fits_writes, fits_cmds, fits_faults, fits_ports, length_modifyAt, h]; done) | (simp at e; done)

theorem performUnholdCarrier_fits (c : Nat) (p : Part) (x : Context) (h : p.fits = true) :
    ∀ q, performUnholdCarrier c p x = some q → q.fits = true := by
  intro q e
  simp only [performUnholdCarrier] at e
  (repeat' split at e) <;> first | (cases e; simp (maxDischargeDepth := 40) [fits_mk, fits_writes, fits_cmds, fits_faults, fits_ports, length_modifyAt, h]; done) | (simp at e; done)

theorem performUnholdBag_fits (c : Nat) (p : Part) (x : Context) (h : p.fits = true) :
    ∀ q, performUnholdBag c p x = some q → q.fits = true := by
  intro q e
  simp only [performUnholdBag] at e
  (repeat' split at e) <;> first | (cases e; simp (maxDischargeDepth := 40) [fits_mk, fits_writes, fits_cmds, fits_faults, fits_ports, length_modifyAt, h]; done) | (simp at e; done)

theorem performUnholdLot_fits (c : Nat) (p : Part) (x : Context) (h : p.fits = true) :
    ∀ q, performUnholdLot c p x = some q → q.fits = true := by
  intro q e
  simp only [performUnholdLot] at e
  (repeat' split at e) <;> first | (cases e; simp (maxDischargeDepth := 40) [fits_mk, fits_writes, fits_cmds, fits_faults, fits_ports, length_modifyAt, h]; done) | (simp at e; done)

theorem performUnholdConsignor_fits (c : Nat) (p : Part) (x : Context) (h : p.fits = true) :
    ∀ q, performUnholdConsignor c p x = some q → q.fits = true := by
  intro q e
  simp only [performUnholdConsignor] at e
  (repeat' split at e) <;> first | (cases e; simp (maxDischargeDepth := 40) [fits_mk, fits_writes, fits_cmds, fits_faults, fits_ports, length_modifyAt, h]; done) | (simp at e; done)

/-! ### Machine/SupervisoryRequests.lean -/

@[simp] theorem Part.zoneAnswer_fits (c : Nat) (a : Status × Body × Part) (h : a.2.2.fits = true) :
    (Part.zoneAnswer c a).fits = true := by
  simp only [Part.zoneAnswer]
  (repeat' split) <;> simp (maxDischargeDepth := 40) [fits_mk, fits_writes, fits_cmds, fits_faults, fits_ports, length_modifyAt, *]

theorem performClimate_fits (c : Nat) (p : Part) (x : Context) (h : p.fits = true) :
    ∀ q, performClimate c p x = some q → q.fits = true := by
  intro q e
  simp only [performClimate] at e
  (repeat' split at e) <;> first | (cases e; simp (maxDischargeDepth := 40) [fits_mk, fits_writes, fits_cmds, fits_faults, fits_ports, length_modifyAt, h]; done) | (simp at e; done)

theorem performTrip_fits (c : Nat) (p : Part) (x : Context) (h : p.fits = true) :
    ∀ q, performTrip c p x = some q → q.fits = true := by
  intro q e
  simp only [performTrip] at e
  (repeat' split at e) <;> first | (cases e; simp (maxDischargeDepth := 40) [fits_mk, fits_writes, fits_cmds, fits_faults, fits_ports, length_modifyAt, h]; done) | (simp at e; done)

theorem performClearTrip_fits (c : Nat) (p : Part) (x : Context) (h : p.fits = true) :
    ∀ q, performClearTrip c p x = some q → q.fits = true := by
  intro q e
  simp only [performClearTrip] at e
  (repeat' split at e) <;> first | (cases e; simp (maxDischargeDepth := 40) [fits_mk, fits_writes, fits_cmds, fits_faults, fits_ports, length_modifyAt, h]; done) | (simp at e; done)

theorem performBakeStart_fits (c : Nat) (p : Part) (x : Context) (h : p.fits = true) :
    ∀ q, performBakeStart c p x = some q → q.fits = true := by
  intro q e
  simp only [performBakeStart] at e
  (repeat' split at e) <;> first | (cases e; simp (maxDischargeDepth := 40) [fits_mk, fits_writes, fits_cmds, fits_faults, fits_ports, length_modifyAt, h]; done) | (simp at e; done)

theorem performBakeStop_fits (c : Nat) (p : Part) (x : Context) (h : p.fits = true) :
    ∀ q, performBakeStop c p x = some q → q.fits = true := by
  intro q e
  simp only [performBakeStop] at e
  (repeat' split at e) <;> first | (cases e; simp (maxDischargeDepth := 40) [fits_mk, fits_writes, fits_cmds, fits_faults, fits_ports, length_modifyAt, h]; done) | (simp at e; done)

theorem performZoneSet_fits (c : Nat) (p : Part) (x : Context) (h : p.fits = true) :
    ∀ q, performZoneSet c p x = some q → q.fits = true := by
  intro q e
  simp only [performZoneSet] at e
  (repeat' split at e) <;> first | (cases e; simp (maxDischargeDepth := 40) [fits_mk, fits_writes, fits_cmds, fits_faults, fits_ports, length_modifyAt, h]; done) | (simp at e; done)

theorem performClassSet_fits (c : Nat) (p : Part) (x : Context) (h : p.fits = true) :
    ∀ q, performClassSet c p x = some q → q.fits = true := by
  intro q e
  simp only [performClassSet] at e
  (repeat' split at e) <;> first | (cases e; simp (maxDischargeDepth := 40) [fits_mk, fits_writes, fits_cmds, fits_faults, fits_ports, length_modifyAt, h]; done) | (simp at e; done)

theorem performBandSet_fits (c : Nat) (p : Part) (x : Context) (h : p.fits = true) :
    ∀ q, performBandSet c p x = some q → q.fits = true := by
  intro q e
  simp only [performBandSet] at e
  (repeat' split at e) <;> first | (cases e; simp (maxDischargeDepth := 40) [fits_mk, fits_writes, fits_cmds, fits_faults, fits_ports, length_modifyAt, h]; done) | (simp at e; done)

theorem performWeightSet_fits (c : Nat) (p : Part) (x : Context) (h : p.fits = true) :
    ∀ q, performWeightSet c p x = some q → q.fits = true := by
  intro q e
  simp only [performWeightSet] at e
  (repeat' split at e) <;> first | (cases e; simp (maxDischargeDepth := 40) [fits_mk, fits_writes, fits_cmds, fits_faults, fits_ports, length_modifyAt, h]; done) | (simp at e; done)

theorem performPortSet_fits (c : Nat) (p : Part) (x : Context) (h : p.fits = true) :
    ∀ q, performPortSet c p x = some q → q.fits = true := by
  have hp : ∀ (s : PortSettings) (i : Nat), (p.setPort i (Port.withSettings s)).fits = true :=
    fun s i => setPort_fits h fun q hq => by
      rw [port_fits_iff] at hq ⊢
      refine ⟨hq.1, hq.2.1, ?_⟩
      simp only [Port.withSettings]
      split
      · simp
      · exact hq.2.2
  intro q e
  simp only [performPortSet] at e
  (repeat' split at e) <;> first
    | (cases e; simp (maxDischargeDepth := 40) [h, hp]; done)
    | (simp at e; done)

theorem performConsignorSet_fits (c : Nat) (p : Part) (x : Context) (h : p.fits = true) :
    ∀ q, performConsignorSet c p x = some q → q.fits = true := by
  intro q e
  simp only [performConsignorSet] at e
  (repeat' split at e) <;> first | (cases e; simp (maxDischargeDepth := 40) [fits_mk, fits_writes, fits_cmds, fits_faults, fits_ports, length_modifyAt, h]; done) | (simp at e; done)

theorem performRouteSet_fits (c : Nat) (p : Part) (x : Context) (h : p.fits = true) :
    ∀ q, performRouteSet c p x = some q → q.fits = true := by
  intro q e
  simp only [performRouteSet] at e
  (repeat' split at e) <;> first | (cases e; simp (maxDischargeDepth := 40) [fits_mk, fits_writes, fits_cmds, fits_faults, fits_ports, length_modifyAt, h]; done) | (simp at e; done)

@[simp] theorem Part.beginRange_fits (p : Part) (h : p.fits = true) : (Part.beginRange p).fits = true := by
  simp only [Part.beginRange]
  (repeat' split) <;> simp (maxDischargeDepth := 40) [fits_mk, fits_writes, fits_cmds, fits_faults, fits_ports, length_modifyAt, *]

theorem performExemptSet_fits (c : Nat) (p : Part) (x : Context) (h : p.fits = true) :
    ∀ q, performExemptSet c p x = some q → q.fits = true := by
  intro q e
  simp only [performExemptSet] at e
  (repeat' split at e) <;> first | (cases e; simp (maxDischargeDepth := 40) [fits_mk, fits_writes, fits_cmds, fits_faults, fits_ports, length_modifyAt, h]; done) | (simp at e; done)

theorem performTimeSet_fits (c : Nat) (p : Part) (x : Context) (h : p.fits = true) :
    ∀ q, performTimeSet c p x = some q → q.fits = true := by
  intro q e
  simp only [performTimeSet] at e
  (repeat' split at e) <;> first | (cases e; simp (maxDischargeDepth := 40) [fits_mk, fits_writes, fits_cmds, fits_faults, fits_ports, length_modifyAt, h]; done) | (simp at e; done)

theorem performForceRetire_fits (c : Nat) (p : Part) (x : Context) (h : p.fits = true) :
    ∀ q, performForceRetire c p x = some q → q.fits = true := by
  intro q e
  simp only [performForceRetire] at e
  (repeat' split at e) <;> first | (cases e; simp (maxDischargeDepth := 40) [fits_mk, fits_writes, fits_cmds, fits_faults, fits_ports, length_modifyAt, h]; done) | (simp at e; done)

theorem performFaultClear_fits (c : Nat) (p : Part) (x : Context) (h : p.fits = true) :
    ∀ q, performFaultClear c p x = some q → q.fits = true := by
  intro q e
  simp only [performFaultClear] at e
  (repeat' split at e) <;> first | (cases e; simp (maxDischargeDepth := 40) [fits_mk, fits_writes, fits_cmds, fits_faults, fits_ports, length_modifyAt, h]; done) | (simp at e; done)

theorem performStatus_fits (c : Nat) (p : Part) (x : Context) (h : p.fits = true) :
    ∀ q, performStatus c p x = some q → q.fits = true := by
  intro q e
  simp only [performStatus] at e
  (repeat' split at e) <;> first | (cases e; simp (maxDischargeDepth := 40) [fits_mk, fits_writes, fits_cmds, fits_faults, fits_ports, length_modifyAt, h]; done) | (simp at e; done)

theorem performReleaseAll_fits (c : Nat) (p : Part) (x : Context) (h : p.fits = true) :
    ∀ q, performReleaseAll c p x = some q → q.fits = true := by
  intro q e
  simp only [performReleaseAll] at e
  (repeat' split at e) <;> first | (cases e; simp (maxDischargeDepth := 40) [fits_mk, fits_writes, fits_cmds, fits_faults, fits_ports, length_modifyAt, h]; done) | (simp at e; done)

@[simp] theorem Part.releaseAllOn_fits (p : Part) (ra : ReleaseAll) (h : p.fits = true) :
    (Part.releaseAllOn p ra).fits = true := by
  simp only [Part.releaseAllOn]
  (repeat' split) <;> simp (maxDischargeDepth := 40) [fits_mk, fits_writes, fits_cmds, fits_faults, fits_ports, length_modifyAt, *]

@[simp] theorem Part.releaseAllRelease_fits (p : Part) (ra : ReleaseAll) (slot : Nat) (r : CarrierRecord) (h : p.fits = true) :
    (Part.releaseAllRelease p ra slot r).fits = true := by
  simp only [Part.releaseAllRelease]
  (repeat' split) <;> simp (maxDischargeDepth := 40) [fits_mk, fits_writes, fits_cmds, fits_faults, fits_ports, length_modifyAt, *]

@[simp] theorem Part.releaseAllStep_fits (p : Part) (ra : ReleaseAll) (h : p.fits = true) :
    (Part.releaseAllStep p ra).fits = true := by
  simp only [Part.releaseAllStep]
  (repeat' split) <;> simp (maxDischargeDepth := 40) [fits_mk, fits_writes, fits_cmds, fits_faults, fits_ports, length_modifyAt, *]

@[simp] theorem Part.releaseAllRead_fits (p : Part) (ra : ReleaseAll) (r : Option CarrierRecord) (checked : Bool)
    (h : p.fits = true) : (p.releaseAllRead ra r checked).fits = true := by
  have hd : ∀ slot k, (p.declareFault slot k fun q => q).fits = true :=
    fun slot k => Part.declareFault_fits _ _ _ _ (fun q hq => hq) h
  simp only [Part.releaseAllRead]
  (repeat' split) <;> simp (maxDischargeDepth := 40) [h, hd]

theorem performRestart_fits (c : Nat) (p : Part) (x : Context) (h : p.fits = true) :
    ∀ q, performRestart c p x = some q → q.fits = true := by
  intro q e
  simp only [performRestart] at e
  (repeat' split at e) <;> first | (cases e; simp (maxDischargeDepth := 40) [fits_mk, fits_writes, fits_cmds, fits_faults, fits_ports, length_modifyAt, h]; done) | (simp at e; done)

theorem performFormat_fits (c : Nat) (p : Part) (x : Context) (h : p.fits = true) :
    ∀ q, performFormat c p x = some q → q.fits = true := by
  intro q e
  simp only [performFormat] at e
  (repeat' split at e) <;> first | (cases e; simp (maxDischargeDepth := 40) [fits_mk, fits_writes, fits_cmds, fits_faults, fits_ports, length_modifyAt, h]; done) | (simp at e; done)

theorem Part.performRow_fits (p : Part) (c : Nat) (row : Nat → Part → Context → Option Part)
    (hr : ∀ p x q, p.fits = true → row c p x = some q → q.fits = true) (h : p.fits = true) :
    (p.performRow c row).fits = true := by
  simp only [Part.performRow]
  split
  · split
    · exact h
    · rename_i x _
      cases e : row c (p.beginPerform c x).1 (p.beginPerform c x).2 with
      | none => simpa using h
      | some q => simpa using hr _ _ _ (Part.beginPerform_fits _ _ _ h) e
  · exact h

theorem performances_fits :
    ∀ f ∈ performances, ∀ c p x q, p.fits = true → f c p x = some q → q.fits = true := by
  intro f hf c p x q h e
  simp only [performances, List.mem_cons, List.not_mem_nil, or_false] at hf
  rcases hf with rfl | rfl | rfl | rfl | rfl | rfl | rfl | rfl | rfl | rfl | rfl | rfl | rfl | rfl | rfl | rfl | rfl | rfl | rfl | rfl | rfl | rfl | rfl | rfl | rfl | rfl | rfl | rfl | rfl | rfl | rfl | rfl | rfl | rfl | rfl | rfl | rfl | rfl | rfl | rfl | rfl | rfl | rfl
  · exact performEnroll_fits _ _ _ h _ e
  · exact performLookup_fits _ _ _ h _ e
  · exact performVerify_fits _ _ _ h _ e
  · exact performOpenOne_fits _ _ _ h _ e
  · exact performMultiOpen_fits _ _ _ h _ e
  · exact performMove_fits _ _ _ h _ e
  · exact performSeal_fits _ _ _ h _ e
  · exact performRetire_fits _ _ _ h _ e
  · exact performRelabel_fits _ _ _ h _ e
  · exact performCheckout_fits _ _ _ h _ e
  · exact performRelease_fits _ _ _ h _ e
  · exact performMoveGroup_fits _ _ _ h _ e
  · exact performListBag_fits _ _ _ h _ e
  · exact performListDue_fits _ _ _ h _ e
  · exact performListCheckouts_fits _ _ _ h _ e
  · exact performHoldCarrier_fits _ _ _ h _ e
  · exact performHoldBag_fits _ _ _ h _ e
  · exact performHoldLot_fits _ _ _ h _ e
  · exact performHoldConsignor_fits _ _ _ h _ e
  · exact performUnholdCarrier_fits _ _ _ h _ e
  · exact performUnholdBag_fits _ _ _ h _ e
  · exact performUnholdLot_fits _ _ _ h _ e
  · exact performUnholdConsignor_fits _ _ _ h _ e
  · exact performClimate_fits _ _ _ h _ e
  · exact performTrip_fits _ _ _ h _ e
  · exact performClearTrip_fits _ _ _ h _ e
  · exact performBakeStart_fits _ _ _ h _ e
  · exact performBakeStop_fits _ _ _ h _ e
  · exact performStatus_fits _ _ _ h _ e
  · exact performClassSet_fits _ _ _ h _ e
  · exact performBandSet_fits _ _ _ h _ e
  · exact performWeightSet_fits _ _ _ h _ e
  · exact performZoneSet_fits _ _ _ h _ e
  · exact performPortSet_fits _ _ _ h _ e
  · exact performConsignorSet_fits _ _ _ h _ e
  · exact performRouteSet_fits _ _ _ h _ e
  · exact performExemptSet_fits _ _ _ h _ e
  · exact performTimeSet_fits _ _ _ h _ e
  · exact performForceRetire_fits _ _ _ h _ e
  · exact performFaultClear_fits _ _ _ h _ e
  · exact performReleaseAll_fits _ _ _ h _ e
  · exact performRestart_fits _ _ _ h _ e
  · exact performFormat_fits _ _ _ h _ e

theorem performAny_fits (c : Nat) (p : Part) (x : Context) (q : Part) (h : p.fits = true)
    (e : performAny c p x = some q) : q.fits = true := by
  obtain ⟨f, hf, hq⟩ := List.exists_of_findSome?_eq_some e
  exact performances_fits f hf c p x q h hq

@[simp] theorem Part.takeRequest_fits (p : Part) (c i : Nat) (q : Queued) (h : p.fits = true) :
    (p.takeRequest c i q).fits = true := by
  have hp : (p.setPort i fun r => { r with requests := r.requests.drop 1 }).fits = true :=
    setPort_fits h fun q hq => hq
  simp only [Part.takeRequest]
  split
  · exact Part.refuse_fits _ _ _ _ (Part.setCtx_fits _ _ _ hp)
  · split
    · exact Part.leaveChained_fits _ _ _ (Part.setCtx_fits _ _ _ hp)
    · exact Part.setCtx_fits _ _ _ hp

/-! ### Machine/PortOps.lean -/

@[simp] theorem Part.takeBytes_fits (p : Part) (i : Nat) (bytes : List Byte) (h : p.fits = true) :
    (p.takeBytes i bytes).fits = true :=
  setPort_fits h fun q hq => hq

@[simp] theorem Part.setFramer_fits (p : Part) (i : Nat) (mode : FramerMode) (held : List Byte) (h : p.fits = true) :
    (p.setFramer i mode held).fits = true :=
  setPort_fits h fun q hq => hq

@[simp] theorem Part.giveLinkFault_fits (p : Part) (i : Nat) (cause : LinkCause) (frame : Option (Nat × Nat)) (h : p.fits = true) :
    (Part.giveLinkFault p i cause frame).fits = true := by
  simp only [Part.giveLinkFault]
  (repeat' split) <;> simp (maxDischargeDepth := 40) [fits_mk, fits_writes, fits_cmds, fits_faults, fits_ports, length_modifyAt, *]

@[simp] theorem Part.loseSync_fits (p : Part) (i : Nat) (cause : LinkCause) (h : p.fits = true) :
    (Part.loseSync p i cause).fits = true := by
  simp only [Part.loseSync]
  (repeat' split) <;> simp (maxDischargeDepth := 40) [fits_mk, fits_writes, fits_cmds, fits_faults, fits_ports, length_modifyAt, *]

@[simp] theorem Part.refuseArrival_fits (p : Part) (i code tag : Nat) (st : Status) (h : p.fits = true) :
    (Part.refuseArrival p i code tag st).fits = true := by
  simp only [Part.refuseArrival]
  (repeat' split) <;> simp (maxDischargeDepth := 40) [fits_mk, fits_writes, fits_cmds, fits_faults, fits_ports, length_modifyAt, *]

@[simp] theorem Part.checkArrival_fits (p : Part) (i code tag : Nat) (body : List Byte) (h : p.fits = true) :
    (p.checkArrival i code tag body).fits = true := by
  simp only [Part.checkArrival]
  (repeat' split) <;> first
    | exact Part.refuseArrival_fits _ _ _ _ _ h
    | exact setPort_fits (p := { p with engine.arrivals := p.engine.arrivals + 1 }) h fun q hq => hq

@[simp] theorem Part.requestArrives_fits (p : Part) (i code tag : Nat) (body : List Byte) (h : p.fits = true) :
    (p.requestArrives i code tag body).fits = true := by
  simp only [Part.requestArrives]
  split
  · exact setPort_fits h fun q hq => hq
  · rename_i hc
    apply Part.checkArrival_fits
    refine setPort_fits_at h fun q hq e => ?_
    subst e
    rw [port_fits_iff] at hq ⊢
    exact ⟨by simp only; omega, hq.2⟩

@[simp] theorem Part.frameArrives_fits (p : Part) (i kind code tag : Nat) (body rest : List Byte) (h : p.fits = true) :
    (Part.frameArrives p i kind code tag body rest).fits = true := by
  simp only [Part.frameArrives]
  (repeat' split) <;> simp (maxDischargeDepth := 40) [fits_mk, fits_writes, fits_cmds, fits_faults, fits_ports, length_modifyAt, *]

@[simp] theorem Part.framerDoes_fits (p : Part) (i : Nat) (e : FramerEvent) (h : p.fits = true) :
    (Part.framerDoes p i e).fits = true := by
  simp only [Part.framerDoes]
  (repeat' split) <;> simp (maxDischargeDepth := 40) [fits_mk, fits_writes, fits_cmds, fits_faults, fits_ports, length_modifyAt, *]

@[simp] theorem Part.framerRow_fits (p : Part) (i : Nat) (bytes : List Byte) (sort : FramerEvent → Bool) (h : p.fits = true) :
    (Part.framerRow p i bytes sort).fits = true := by
  simp only [Part.framerRow]
  (repeat' split) <;> simp (maxDischargeDepth := 40) [fits_mk, fits_writes, fits_cmds, fits_faults, fits_ports, length_modifyAt, *]

@[simp] theorem Part.queueWaiting_fits (p : Part) (i : Nat) (h : p.fits = true) : (p.queueWaiting i).fits = true := by
  simp only [Part.queueWaiting]
  split
  · exact h
  · split
    · rename_i w rest e hc
      refine Part.queueAnswer_fits _ _ _ _ (setPort_fits h fun q hq => hq) ?_
      rw [portAt_setPort (f := fun q => { q with waitingAnswers := rest }) (g := fun q => q.answers) (fun _ => rfl)]
      exact hc
    · exact h

@[simp] theorem Part.turnDone_fits (p : Part) (i : Nat) (h : p.fits = true) : (p.turnDone i).fits = true := by
  simp only [Part.turnDone]
  split
  · exact setPort_fits h fun q hq => beginTurn_fits hq
  · exact h

/-! ### Machine/Rebuild.lean -/

@[simp] theorem Part.landInFlight_fits (p : Part) (h : p.fits = true) : p.landInFlight.fits = true := by
  simp only [Part.landInFlight]
  (repeat' split) <;> exact h

@[simp] theorem Part.interrupted_fits (p : Part) (h : p.fits = true) : p.interrupted.fits = true := by
  simp only [Part.interrupted]
  split <;> exact Part.landInFlight_fits p h

theorem Part.powerOn_fits (p : Part) : p.powerOn.fits = true := rfl

@[simp] theorem Part.restart_fits (p : Part) (kind : StartKind) (mode : Mode) (minute : Option Nat) (h : p.fits = true) :
    (p.restart kind mode minute).fits = true := by
  have hp := fits_ports (Part.interrupted_fits p h)
  simp only [Part.restart, fits_mk, Part.blank]
  refine ⟨by decide, by decide, by decide, ?_⟩
  refine all_mapIdx hp fun i q hq => ?_
  rw [port_fits_iff] at hq ⊢
  exact ⟨by simp [Port.kept], hq.2.1, hq.2.2⟩

@[simp] theorem Part.loadSettings_fits (p : Part) (h : p.fits = true) : p.loadSettings.fits = true := by
  simp only [Part.loadSettings, fits_mk]
  exact ⟨fits_writes h, fits_cmds h, fits_faults h, all_mapIdx (fits_ports h) fun i q hq => hq⟩

@[simp] theorem Part.loadConfig_fits (p : Part) (h : p.fits = true) : (Part.loadConfig p).fits = true := by
  simp only [Part.loadConfig]
  (repeat' split) <;> simp (maxDischargeDepth := 40) [fits_mk, fits_writes, fits_cmds, fits_faults, fits_ports, length_modifyAt, *]

@[simp] theorem Part.endLoadedBake_fits (p : Part) (z : Nat) (r : ZoneRecord) (h : p.fits = true) :
    (Part.endLoadedBake p z r).fits = true := by
  simp only [Part.endLoadedBake]
  (repeat' split) <;> simp (maxDischargeDepth := 40) [fits_mk, fits_writes, fits_cmds, fits_faults, fits_ports, length_modifyAt, *]

@[simp] theorem Part.loadZones_fits (p : Part) (h : p.fits = true) : p.loadZones.fits = true := by
  simp only [Part.loadZones]
  exact foldl_fits _ (fun q z hq => Part.endLoadedBake_fits q z _ hq) _ _ h

@[simp] theorem Part.recountBranches_fits (p : Part) (h : p.fits = true) : p.recountBranches.fits = true := by
  rw [Part.recountBranches]
  refine foldl_fits _ ?_ _ _ h
  intro q b hq
  split
  · exact hq
  · refine foldl_fits _ ?_ _ _ hq
    intro q b hq
    dsimp only
    split <;> simp [hq]

@[simp] theorem Part.recountRoots_fits (p : Part) (h : p.fits = true) : p.recountRoots.fits = true :=
  foldl_fits _ (fun q b hq => by simp [hq]) _ _ h

@[simp] theorem Part.judgeRecord_fits (p : Part) (slot : Nat) (r : CarrierRecord) (entries : List Key) (h : p.fits = true) :
    (p.judgeRecord slot r entries).fits = true := by
  have hf : ∀ (l : List Key) (q : Part), q.fits = true →
      (l.foldl (fun (q : Part) k => q.removeEntryOf none slot k) q).fits = true :=
    fun l q hq => foldl_fits _ (fun q b hq => by simp [hq]) _ _ hq
  simp only [Part.judgeRecord]
  have ho : ∀ (q : Part) (l : List Nat), q.fits = true → ({ q with tally.orphans := l } : Part).fits = true :=
    fun q l hq => hq
  refine ite_fits ?_ (Part.pushWrite_fits _ _ _ ?_) <;>
    refine ite_fits (Part.giveReleased_fits _ _ _ _ _ ?_) ?_ <;>
    refine ite_fits (ho _ _ ?_) ?_ <;>
    refine ite_fits (hf _ _ ?_) ?_ <;>
    exact hf _ _ h

@[simp] theorem Part.scanSlot_fits (p : Part) (slot : Nat) (entries : List Key) (h : p.fits = true) :
    (Part.scanSlot p slot entries).fits = true := by
  simp only [Part.scanSlot]
  (repeat' split) <;> simp (maxDischargeDepth := 40) [fits_mk, fits_writes, fits_cmds, fits_faults, fits_ports, length_modifyAt, *]

@[simp] theorem Part.rebuildBags_fits (p : Part) (live : List Nat) (h : p.fits = true) :
    (p.rebuildBags live).fits = true := by
  simp only [Part.rebuildBags]
  refine foldl_fits _ ?_ _ _ h
  intro q b hq
  split <;> simp [hq]

@[simp] theorem Part.scanDirectory_fits (p : Part) (h : p.fits = true) : p.scanDirectory.fits = true := by
  simp only [Part.scanDirectory]
  generalize hq : ({ p with engine.roots := _ } : Part).recountBranches.recountRoots = q
  have hqf : q.fits = true := by
    rw [← hq]
    exact Part.recountRoots_fits _ (Part.recountBranches_fits _ h)
  generalize hr : List.foldl _ q _ = r
  have hrf : r.fits = true := by
    rw [← hr]
    exact foldl_fits _ (fun q b hq => by simp [hq]) _ _ hqf
  rw [fits_mk]
  generalize hs : Part.rebuildBags _ _ = s
  have hsf : s.fits = true := by
    rw [← hs]
    apply Part.rebuildBags_fits
    rw [fits_mk]
    exact ⟨fits_writes hrf, fits_cmds hrf, fits_faults hrf, fits_ports hrf⟩
  exact ⟨fits_writes hsf, fits_cmds hsf, fits_faults hsf, fits_ports hsf⟩

@[simp] theorem Part.reconcileTallies_fits (p : Part) (h : p.fits = true) : p.reconcileTallies.fits = true := by
  rw [Part.reconcileTallies]
  refine foldl_fits _ ?_ _ _ h
  intro q b hq
  dsimp only
  split <;> simp [hq]

@[simp] theorem Part.recount_fits (p : Part) (h : p.fits = true) : (Part.recount p).fits = true := by
  simp only [Part.recount]
  (repeat' split) <;> simp (maxDischargeDepth := 40) [fits_mk, fits_writes, fits_cmds, fits_faults, fits_ports, length_modifyAt, *]

@[simp] theorem Part.raiseCapacities_fits (p : Part) (h : p.fits = true) : (Part.raiseCapacities p).fits = true := by
  simp only [Part.raiseCapacities]
  (repeat' split) <;> simp (maxDischargeDepth := 40) [fits_mk, fits_writes, fits_cmds, fits_faults, fits_ports, length_modifyAt, *]

@[simp] theorem Part.insertNow_fits (p : Part) (n : Nat) (h : p.fits = true) : (Part.insertNow p n).fits = true := by
  simp only [Part.insertNow]
  (repeat' split) <;> simp (maxDischargeDepth := 40) [fits_mk, fits_writes, fits_cmds, fits_faults, fits_ports, length_modifyAt, *]

@[simp] theorem Part.reformLists_fits (p : Part) (h : p.fits = true) : p.reformLists.fits = true := by
  rw [Part.reformLists]
  refine foldl_fits _ ?_ _ _ h
  intro q b hq
  split
  · exact foldl_fits _ (fun q b hq => by simp [hq]) _ _ hq
  · exact hq

@[simp] theorem Part.loadTallies_fits (p : Part) (h : p.fits = true) : (Part.loadTallies p).fits = true := by
  simp only [Part.loadTallies]
  (repeat' split) <;> simp (maxDischargeDepth := 40) [fits_mk, fits_writes, fits_cmds, fits_faults, fits_ports, length_modifyAt, *]

@[simp] theorem Part.afterScan_fits (p : Part) (h : p.fits = true) : (Part.afterScan p).fits = true := by
  simp only [Part.afterScan]
  (repeat' split) <;> simp (maxDischargeDepth := 40) [fits_mk, fits_writes, fits_cmds, fits_faults, fits_ports, length_modifyAt, *]

@[simp] theorem Part.scanTallies_fits (p : Part) (h : p.fits = true) : p.scanTallies.fits = true := by
  have hf := Part.reformLists_fits _ (Part.raiseCapacities_fits _ (Part.recount_fits _ (Part.loadTallies_fits _ h)))
  simp only [Part.scanTallies]
  apply Part.afterScan_fits
  rw [fits_mk]
  exact ⟨fits_writes hf, fits_cmds hf, fits_faults hf, fits_ports hf⟩

@[simp] theorem Part.clear_fits (p : Part) (h : p.fits = true) : (Part.clear p).fits = true := by
  simp only [Part.clear]
  (repeat' split) <;> simp (maxDischargeDepth := 40) [fits_mk, fits_writes, fits_cmds, fits_faults, fits_ports, length_modifyAt, *]

/-! ### Machine/Urgent.lean -/

@[simp] theorem Part.beginRestart_fits (p : Part) (h : p.fits = true) : (Part.beginRestart p).fits = true := by
  simp only [Part.beginRestart]
  (repeat' split) <;> simp (maxDischargeDepth := 40) [fits_mk, fits_writes, fits_cmds, fits_faults, fits_ports, length_modifyAt, *]

@[simp] theorem Part.beginFormat_fits (p : Part) (h : p.fits = true) : (Part.beginFormat p).fits = true := by
  simp only [Part.beginFormat]
  (repeat' split) <;> simp (maxDischargeDepth := 40) [fits_mk, fits_writes, fits_cmds, fits_faults, fits_ports, length_modifyAt, *]

theorem urgentStart_fits (p : Part) (h : p.fits = true) : ∀ q, urgentStart p = some q → q.fits = true := by
  intro q e
  simp only [urgentStart] at e
  (repeat' split at e) <;> first | (cases e; simp (maxDischargeDepth := 40) [fits_mk, fits_writes, fits_cmds, fits_faults, fits_ports, length_modifyAt, h]; done) | (simp at e; done)

theorem urgentBake_fits (p : Part) (h : p.fits = true) : ∀ q, urgentBake p = some q → q.fits = true := by
  intro q e
  simp only [urgentBake, Option.map_eq_some_iff] at e
  obtain ⟨a, -, rfl⟩ := e
  simp [h]

theorem urgentProbe_fits (p : Part) (h : p.fits = true) : ∀ q, urgentProbe p = some q → q.fits = true := by
  intro q e
  simp only [urgentProbe] at e
  (repeat' split at e) <;> first | (cases e; simp (maxDischargeDepth := 40) [fits_mk, fits_writes, fits_cmds, fits_faults, fits_ports, length_modifyAt, h]; done) | (simp at e; done)

theorem Part.queueHeld_fits (p : Part) (h : p.fits = true) (hr : p.path.queue.length < Config.writeQueueSize) :
    p.queueHeld.fits = true := by
  simp only [Part.queueHeld]
  split
  · exact h
  · rename_i w rest e
    have h1 : (({ p with path.queue := p.path.queue ++ [w], path.held := rest } : Part).arbitrate).fits = true := by
      apply Part.arbitrate_fits
      rw [fits_mk]
      refine ⟨?_, fits_cmds h, fits_faults h, fits_ports h⟩
      simp only [List.length_append, List.length_singleton]
      omega
    split
    · exact Part.finish_fits _ _ h1
    · exact h1

theorem urgentHeld_fits (p : Part) (h : p.fits = true) : ∀ q, urgentHeld p = some q → q.fits = true := by
  intro q e
  simp only [urgentHeld] at e
  split at e
  · rename_i hc
    cases e
    exact Part.queueHeld_fits p h hc.2
  · simp at e

theorem urgentAnswer_fits (p : Part) (h : p.fits = true) : ∀ q, urgentAnswer p = some q → q.fits = true := by
  intro q e
  simp only [urgentAnswer, Option.map_eq_some_iff] at e
  obtain ⟨a, -, rfl⟩ := e
  simp [h]

theorem urgentTurn_fits (p : Part) (h : p.fits = true) : ∀ q, urgentTurn p = some q → q.fits = true := by
  intro q e
  simp only [urgentTurn] at e
  (repeat' split at e) <;> first | (cases e; simp (maxDischargeDepth := 40) [fits_mk, fits_writes, fits_cmds, fits_faults, fits_ports, length_modifyAt, h]; done) | (simp at e; done)

theorem urgentRange_fits (p : Part) (h : p.fits = true) : ∀ q, urgentRange p = some q → q.fits = true := by
  intro q e
  simp only [urgentRange] at e
  (repeat' split at e) <;> first | (cases e; simp (maxDischargeDepth := 40) [fits_mk, fits_writes, fits_cmds, fits_faults, fits_ports, length_modifyAt, h]; done) | (simp at e; done)

theorem urgentFramer_fits (p : Part) (h : p.fits = true) : ∀ q, urgentFramer p = some q → q.fits = true := by
  intro q e
  simp only [urgentFramer, Option.map_eq_some_iff] at e
  obtain ⟨a, -, rfl⟩ := e
  simp [h]

theorem urgentPerform_fits (p : Part) (h : p.fits = true) : ∀ q, urgentPerform p = some q → q.fits = true := by
  intro q e
  simp only [urgentPerform, Option.map_eq_some_iff] at e
  obtain ⟨a, -, rfl⟩ := e
  exact p.performRow_fits a _ (fun p x q hp hq => performAny_fits a p x q hp hq) h

end Sys2Proof.Machine
end

