-- ==== Sys2Proof/Laws/Shell.lean ====
section
/-! SUPPORT. What almost no operation changes: the supply, the reset line, the condition lines, the record memory, the count of
free values, and the sizes of the tables. One lemma for each operation; those that do change one of them say which. -/

set_option linter.unusedSimpArgs false

namespace Sys2Proof.Machine

/-- What of a part almost every operation leaves as it is. -/
structure Shell where
  power     : Bool
  resetLine : Bool
  lines     : List Bool
  mem       : RecordMemory
  free      : Nat
  zones     : Nat
  timers    : Nat
  ports     : Nat
  occupancy : Nat
  useCounts : Nat

def Part.shell (p : Part) : Shell :=
  ⟨p.power, p.resetLine, p.lines, p.mem, p.free, p.zone.zones.length, p.zone.timers.length, p.port.ports.length,
    p.tally.occupancy.length, p.tally.useCounts.length⟩

theorem shell_mk (power resetLine : Bool) (lines : List Bool) (zone : ZoneUnit) (tally : TallyUnit) (path : RecordPath)
    (engine : Engine) (port : PortUnit) (mem : RecordMemory) (free : Nat) :
    (Part.mk power resetLine lines zone tally path engine port mem free).shell =
      ⟨power, resetLine, lines, mem, free, zone.zones.length, zone.timers.length, port.ports.length,
        tally.occupancy.length, tally.useCounts.length⟩ := rfl

theorem shell_fold (q : Part) :
    (⟨q.power, q.resetLine, q.lines, q.mem, q.free, q.zone.zones.length, q.zone.timers.length, q.port.ports.length,
      q.tally.occupancy.length, q.tally.useCounts.length⟩ : Shell) = q.shell := rfl

theorem shell_free (q : Part) : q.shell.free = q.free := rfl

theorem shell_mem (q : Part) : q.shell.mem = q.mem := rfl

theorem foldl_shell {β : Type} (f : Part → β → Part) (h : ∀ q b, (f q b).shell = q.shell) (l : List β) (p : Part) :
    (l.foldl f p).shell = p.shell := by
  induction l generalizing p with
  | nil => rfl
  | cons b l ih => simp [List.foldl, ih, h]

/-! ### Machine/Ops.lean -/

@[simp] theorem Part.setZone_shell (p : Part) (z : Nat) (f : Zone → Zone) : (Part.setZone p z f).shell = p.shell := by
  simp only [Part.setZone]
  (repeat' split) <;> simp [shell_mk, shell_fold]

@[simp] theorem Part.setPort_shell (p : Part) (i : Nat) (f : Port → Port) : (Part.setPort p i f).shell = p.shell := by
  simp only [Part.setPort]
  (repeat' split) <;> simp [shell_mk, shell_fold]

@[simp] theorem Part.setList_shell (p : Part) (l : Nat) (d : DueList) : (Part.setList p l d).shell = p.shell := by
  simp only [Part.setList]
  (repeat' split) <;> simp [shell_mk, shell_fold]

@[simp] theorem Part.setRoot_shell (p : Part) (c : Nat) (e : RootEntry) : (Part.setRoot p c e).shell = p.shell := by
  simp only [Part.setRoot]
  (repeat' split) <;> simp [shell_mk, shell_fold]

@[simp] theorem Part.setSlot_shell (p : Part) (s : Nat) (st : SlotState) : (Part.setSlot p s st).shell = p.shell := by
  simp only [Part.setSlot]
  (repeat' split) <;> simp [shell_mk, shell_fold]

@[simp] theorem Part.setBag_shell (p : Part) (b : Nat) (r : BagRecord) : (Part.setBag p b r).shell = p.shell := by
  simp only [Part.setBag]
  (repeat' split) <;> simp [shell_mk, shell_fold]

@[simp] theorem Part.setCtx_shell (p : Part) (c : Nat) (x : Context) : (Part.setCtx p c x).shell = p.shell := by
  simp only [Part.setCtx]
  (repeat' split) <;> simp [shell_mk, shell_fold]

@[simp] theorem Part.dropCtx_shell (p : Part) (c : Nat) : (Part.dropCtx p c).shell = p.shell := by
  simp only [Part.dropCtx]
  (repeat' split) <;> simp [shell_mk, shell_fold]

@[simp] theorem Part.updCtx_shell (p : Part) (c : Nat) (f : Context → Context) :
    (Part.updCtx p c f).shell = p.shell := by
  simp only [Part.updCtx]
  (repeat' split) <;> simp [shell_mk, shell_fold]

@[simp] theorem Part.giveOn_shell (p : Part) (i : Nat) (kind : NoticeKind) (holderCopy : Bool) (body : Body) :
    (Part.giveOn p i kind holderCopy body).shell = p.shell := by
  simp only [Part.giveOn]
  (repeat' split) <;> simp [shell_mk, shell_fold]

@[simp] theorem Part.giveRouted_shell (p : Part) (kind : NoticeKind) (body : Body) :
    (Part.giveRouted p kind body).shell = p.shell := by
  simp only [Part.giveRouted]
  (repeat' split) <;> simp [shell_mk, shell_fold]

@[simp] theorem Part.giveModeChange_shell (p : Part) (left entered : Mode) (cause : ModeCause) :
    (Part.giveModeChange p left entered cause).shell = p.shell := by
  simp only [Part.giveModeChange]
  (repeat' split) <;> simp [shell_mk, shell_fold]

@[simp] theorem Part.queueAnswer_shell (p : Part) (i : Nat) (a : Answer) (ctx : Option Nat) :
    (Part.queueAnswer p i a ctx).shell = p.shell := by
  simp only [Part.queueAnswer]
  (repeat' split) <;> simp [shell_mk, shell_fold]

@[simp] theorem Part.composeAnswer_shell (p : Part) (i : Nat) (a : Answer) (ctx : Option Nat) :
    (Part.composeAnswer p i a ctx).shell = p.shell := by
  simp only [Part.composeAnswer]
  (repeat' split) <;> simp [shell_mk, shell_fold]

@[simp] theorem Part.grant_shell (p : Part) (r : Requester) (a : Access) : (Part.grant p r a).shell = p.shell := by
  simp only [Part.grant]
  (repeat' split) <;> simp [shell_mk, shell_fold]

@[simp] theorem Part.grantFirst_shell (p : Part) (l : List Requester) : (p.grantFirst l).shell = p.shell := by
  induction l with
  | nil => rfl
  | cons r rest ih =>
    simp only [Part.grantFirst]
    split <;> simp [ih]

@[simp] theorem Part.arbitrate_shell (p : Part) : (Part.arbitrate p).shell = p.shell := by
  simp only [Part.arbitrate]
  (repeat' split) <;> simp [shell_mk, shell_fold]

@[simp] theorem Part.endAccess_shell (p : Part) : (Part.endAccess p).shell = p.shell := by
  simp only [Part.endAccess]
  (repeat' split) <;> simp [shell_mk, shell_fold]

@[simp] theorem Part.pushWrite_shell (p : Part) (ctx : Option Nat) (b : WriteBody) :
    (Part.pushWrite p ctx b).shell = p.shell := by
  simp only [Part.pushWrite]
  (repeat' split) <;> simp [shell_mk, shell_fold]

@[simp] theorem Part.setTally_shell (p : Part) (n : Nat) (t : Tally) (cmd : Option Nat) :
    (Part.setTally p n t cmd).shell = p.shell := by
  simp only [Part.setTally]
  (repeat' split) <;> simp [shell_mk, shell_fold]

@[simp] theorem Part.pushZoneWrite_shell (p : Part) (z : Nat) : (Part.pushZoneWrite p z).shell = p.shell := by
  simp only [Part.pushZoneWrite]
  (repeat' split) <;> simp [shell_mk, shell_fold]

@[simp] theorem Part.fixZoneWrites_shell (p : Part) : p.fixZoneWrites.shell = p.shell := rfl

@[simp] theorem Part.pushAdvance_shell (p : Part) (area : MeterArea) (gap : Bool) :
    (p.pushAdvance area gap).shell = p.shell :=
  Part.arbitrate_shell _

@[simp] theorem Part.issueRead_shell (p : Part) (client : ReadClient) (t : ReadTarget) :
    (Part.issueRead p client t).shell = p.shell := by
  simp only [Part.issueRead]
  (repeat' split) <;> simp [shell_mk, shell_fold]

theorem Part.takeReturn_shell {p : Part} {client : ReadClient} {v : Option ReadValue} {q : Part}
    (h : p.takeReturn client = some (v, q)) : q.shell = p.shell := by
  simp only [Part.takeReturn] at h
  (repeat' split at h) <;> simp at h <;> (obtain ⟨-, rfl⟩ := h) <;> simp [shell_mk, shell_fold]

/-! ### Machine/RecordPath.lean -/

@[simp] theorem Part.resolveKey_shell (p : Part) (c : Nat) (k : Key) (r : Resolution) :
    (Part.resolveKey p c k r).shell = p.shell := by
  simp only [Part.resolveKey]
  (repeat' split) <;> simp [shell_mk, shell_fold]

@[simp] theorem Part.readyOn_shell (p : Part) (c : Nat) (k : Key) (index slot : Nat) (form : KeyForm) :
    (Part.readyOn p c k index slot form).shell = p.shell := by
  simp only [Part.readyOn]
  (repeat' split) <;> simp [shell_mk, shell_fold]

@[simp] theorem Part.returnSlot_shell (p : Part) (slot : Nat) : (Part.returnSlot p slot).shell = p.shell := by
  simp only [Part.returnSlot]
  (repeat' split) <;> simp [shell_mk, shell_fold]

@[simp] theorem Part.setWalk_shell (p : Part) (e : Nat) (w : Walk) : (Part.setWalk p e w).shell = p.shell := by
  simp only [Part.setWalk]
  (repeat' split) <;> simp [shell_mk, shell_fold]

@[simp] theorem Part.leaveMissWait_shell (p : Part) (c : Nat) : (p.leaveMissWait c).shell = p.shell := by
  simp only [Part.leaveMissWait]
  (repeat' split) <;> rfl

@[simp] theorem Part.freeWalk_shell (p : Part) (e : Nat) (w : Walk) : (Part.freeWalk p e w).shell = p.shell := by
  simp only [Part.freeWalk]
  (repeat' split) <;> simp [shell_mk, shell_fold]

@[simp] theorem Part.walkFail_shell (p : Part) (e : Nat) (w : Walk) (outcome : Resolution) :
    (p.walkFail e w outcome).shell = p.shell := by
  simp [Part.walkFail, foldl_shell]

@[simp] theorem Part.walkBegin_shell (p : Part) (e : Nat) (w : Walk) : (Part.walkBegin p e w).shell = p.shell := by
  simp only [Part.walkBegin]
  (repeat' split) <;> simp [shell_mk, shell_fold]

@[simp] theorem Part.walkRestart_shell (p : Part) (e : Nat) (w : Walk) (epoch : Nat) :
    (Part.walkRestart p e w epoch).shell = p.shell := by
  simp only [Part.walkRestart]
  (repeat' split) <;> simp [shell_mk, shell_fold]

@[simp] theorem Part.miss_shell (p : Part) (c : Nat) (k : Key) : (Part.miss p c k).shell = p.shell := by
  simp only [Part.miss]
  (repeat' split) <;> simp [shell_mk, shell_fold]

@[simp] theorem Part.probeOnce_shell (p : Part) (c : Nat) (k : Key) : (Part.probeOnce p c k).shell = p.shell := by
  simp only [Part.probeOnce]
  (repeat' split) <;> simp [shell_mk, shell_fold]

theorem Part.probesFrom_shell (n : Nat) : ∀ p : Part, (Part.probesFrom n p).shell = p.shell := by
  induction n with
  | zero => exact fun p => rfl
  | succ n ih =>
    intro p
    simp only [Part.probesFrom]
    split <;> simp [ih, shell_mk, shell_fold]

@[simp] theorem Part.makeProbes_shell (p : Part) : p.makeProbes.shell = p.shell := Part.probesFrom_shell _ p

@[simp] theorem Part.probe_shell (p : Part) (c : Nat) (k : Key) : (p.probe c k).shell = p.shell := by
  simp [Part.probe]

@[simp] theorem Part.removeEntry_shell (p : Part) (index : Nat) : (p.removeEntry index).shell = p.shell := by
  simp [Part.removeEntry, foldl_shell, shell_mk, shell_fold]

@[simp] theorem Part.removeSlotEntry_shell (p : Part) (slot : Nat) :
    (Part.removeSlotEntry p slot).shell = p.shell := by
  simp only [Part.removeSlotEntry]
  (repeat' split) <;> simp [shell_mk, shell_fold]

@[simp] theorem Part.walkFilled_shell (p : Part) (e : Nat) (w : Walk) (index slot : Nat) :
    (p.walkFilled e w index slot).shell = p.shell := by
  simp [Part.walkFilled, foldl_shell]

@[simp] theorem Part.dropOutdated_shell (p : Part) (k : Key) : (p.dropOutdated k).shell = p.shell := by
  simp only [Part.dropOutdated]
  (repeat' split) <;> simp

@[simp] theorem Part.fill_shell (p : Part) (e : Nat) (w : Walk) (slot : Nat) (r : CarrierRecord) :
    (Part.fill p e w slot r).shell = p.shell := by
  simp only [Part.fill]
  (repeat' split) <;> simp [shell_mk, shell_fold]

@[simp] theorem Part.enterFault_shell (p : Part) (slot : Nat) (k : Key) :
    (Part.enterFault p slot k).shell = p.shell := by
  simp only [Part.enterFault]
  (repeat' split) <;> simp [shell_mk, shell_fold]

@[simp] theorem Part.giveFaultNotice_shell (p : Part) (slot : Nat) (k : Key) (position : Option Nat) :
    (Part.giveFaultNotice p slot k position).shell = p.shell := by
  simp only [Part.giveFaultNotice]
  (repeat' split) <;> simp [shell_mk, shell_fold]

theorem Part.declareFault_shell (p : Part) (slot : Nat) (k : Key) (endWalk : Part → Part)
    (h : ∀ q, (endWalk q).shell = q.shell) : (p.declareFault slot k endWalk).shell = p.shell := by
  simp only [Part.declareFault]
  (repeat' split) <;> simp [h]

@[simp] theorem Part.walkFill_shell (p : Part) (e : Nat) (w : Walk) : (Part.walkFill p e w).shell = p.shell := by
  simp only [Part.walkFill]
  (repeat' split) <;> simp [shell_mk, shell_fold]

@[simp] theorem Part.walkHolds_shell (p : Part) (e : Nat) (w : Walk) (r : CarrierRecord) :
    (Part.walkHolds p e w r).shell = p.shell := by
  simp only [Part.walkHolds]
  (repeat' split) <;> simp [shell_mk, shell_fold]

@[simp] theorem Part.walkSlot_shell (p : Part) (e : Nat) (w : Walk) (s : Nat) :
    (Part.walkSlot p e w s).shell = p.shell := by
  simp only [Part.walkSlot]
  (repeat' split) <;> simp [shell_mk, shell_fold]

@[simp] theorem Part.walkRecord_shell (p : Part) (e : Nat) (w : Walk) (s : Nat) (r : Option CarrierRecord) (checked : Bool) :
    (p.walkRecord e w s r checked).shell = p.shell := by
  simp only [Part.walkRecord]
  (repeat' split) <;> simp [Part.declareFault_shell]

@[simp] theorem Part.walkRead_shell (p : Part) (e : Nat) (w : Walk) (v : ReadValue) :
    (Part.walkRead p e w v).shell = p.shell := by
  simp only [Part.walkRead]
  (repeat' split) <;> simp [shell_mk, shell_fold]

/-! ### Machine/Contexts.lean -/

@[simp] theorem Part.startKey_shell (p : Part) (c : Nat) (q : Request) (k : Key) :
    (Part.startKey p c q k).shell = p.shell := by
  simp only [Part.startKey]
  (repeat' split) <;> simp [shell_mk, shell_fold]

@[simp] theorem Part.leaveChained_shell (p : Part) (c : Nat) (x : Context) :
    (p.leaveChained c x).shell = p.shell := by
  simp only [Part.leaveChained]
  split <;> simp [foldl_shell]

@[simp] theorem Part.openGates_shell (p : Part) : p.openGates.shell = p.shell := by
  rw [Part.openGates, foldl_shell]
  intro q b
  split <;> simp

@[simp] theorem Part.issueNext_shell (p : Part) (c : Nat) : (Part.issueNext p c).shell = p.shell := by
  simp only [Part.issueNext]
  (repeat' split) <;> simp [shell_mk, shell_fold]

@[simp] theorem Part.entryFreed_shell (p : Part) (wasFull : Bool) : (p.entryFreed wasFull).shell = p.shell := by
  simp only [Part.entryFreed]
  (repeat' split) <;> simp

@[simp] theorem Part.dropFaulted_shell (p : Part) (slots : List Nat) : (p.dropFaulted slots).shell = p.shell := by
  rw [Part.dropFaulted, foldl_shell]
  intro q b
  split <;> simp

@[simp] theorem Part.answer_shell (p : Part) (c : Nat) (r : Reply) : (Part.answer p c r).shell = p.shell := by
  simp only [Part.answer]
  (repeat' split) <;> simp [shell_mk, shell_fold]

@[simp] theorem Part.finish_shell (p : Part) (c : Nat) : (Part.finish p c).shell = p.shell := by
  simp only [Part.finish]
  (repeat' split) <;> simp [shell_mk, shell_fold]

@[simp] theorem Part.reply_shell (p : Part) (c : Nat) (s : Status) (body : Body) :
    (Part.reply p c s body).shell = p.shell := by
  simp only [Part.reply]
  (repeat' split) <;> simp [shell_mk, shell_fold]

@[simp] theorem Part.refuse_shell (p : Part) (c : Nat) (s : Status) (body : Body) :
    (Part.refuse p c s body).shell = p.shell := by
  simp only [Part.refuse]
  (repeat' split) <;> simp [shell_mk, shell_fold]

@[simp] theorem Part.command_shell (p : Part) (c : Nat) (ops : List TallyOp) :
    (Part.command p c ops).shell = p.shell := by
  simp only [Part.command]
  (repeat' split) <;> simp [shell_mk, shell_fold]

@[simp] theorem Part.changeRecord_shell (p : Part) (c : Option Nat) (slot : Nat) (r : CarrierRecord) :
    (Part.changeRecord p c slot r).shell = p.shell := by
  simp only [Part.changeRecord]
  (repeat' split) <;> simp [shell_mk, shell_fold]

@[simp] theorem Part.changeBag_shell (p : Part) (c : Option Nat) (b : Nat) (r : BagRecord) :
    (Part.changeBag p c b r).shell = p.shell := by
  simp only [Part.changeBag]
  (repeat' split) <;> simp [shell_mk, shell_fold]

@[simp] theorem Part.beginPerform_shell (p : Part) (c : Nat) (x : Context) :
    (p.beginPerform c x).1.shell = p.shell := by
  simp [Part.beginPerform, shell_mk, shell_fold]

/-! ### Machine/Directory.lean -/

@[simp] theorem Part.reprobePattern_shell (p : Part) (f : Flush) : (p.reprobePattern f).shell = p.shell := by
  simp [Part.reprobePattern, foldl_shell]

@[simp] theorem Part.beginFlush_shell (p : Part) (c : Nat) (consignor : BitVec 8) (lot : Option (BitVec 12)) :
    (Part.beginFlush p c consignor lot).shell = p.shell := by
  simp only [Part.beginFlush]
  (repeat' split) <;> simp [shell_mk, shell_fold]

@[simp] theorem Part.readLotHold_shell (p : Part) (c : Nat) (consignor lot : Nat) :
    (Part.readLotHold p c consignor lot).shell = p.shell := by
  simp only [Part.readLotHold]
  (repeat' split) <;> simp [shell_mk, shell_fold]

@[simp] theorem Part.lotHoldRead_shell (p : Part) (c : Nat) : (Part.lotHoldRead p c).shell = p.shell := by
  simp only [Part.lotHoldRead]
  (repeat' split) <;> simp [shell_mk, shell_fold]

@[simp] theorem Part.consignorHold_shell (p : Part) (c : Nat) (un : Bool) (con reason : Nat) :
    (Part.consignorHold p c un con reason).shell = p.shell := by
  simp only [Part.consignorHold]
  (repeat' split) <;> simp [shell_mk, shell_fold]

@[simp] theorem Part.flushStep_shell (p : Part) (f : Flush) : (p.flushStep f).shell = p.shell := by
  simp only [Part.flushStep]
  split <;> simp [foldl_shell, shell_mk, shell_fold]

@[simp] theorem Part.recheckExempt_shell (p : Part) (proposed : ExemptRange) :
    (p.recheckExempt proposed).shell = p.shell := by
  rw [Part.recheckExempt, foldl_shell]
  intro q b
  (repeat' split) <;> simp

@[simp] theorem Part.installRange_shell (p : Part) (c n : Nat) (r : ExemptRange) :
    (Part.installRange p c n r).shell = p.shell := by
  simp only [Part.installRange]
  (repeat' split) <;> simp [shell_mk, shell_fold]

@[simp] theorem Part.rangeFrom_shell (p : Part) (rc : RangeCheck) (consignor lot : Nat) :
    (Part.rangeFrom p rc consignor lot).shell = p.shell := by
  simp only [Part.rangeFrom]
  (repeat' split) <;> simp [shell_mk, shell_fold]

@[simp] theorem Part.rangeRead_shell (p : Part) (rc : RangeCheck) (e : BranchEntry) :
    (Part.rangeRead p rc e).shell = p.shell := by
  simp only [Part.rangeRead]
  (repeat' split) <;> simp [shell_mk, shell_fold]

@[simp] theorem Part.restartRead_shell (p : Part) (client : ReadClient) :
    (Part.restartRead p client).shell = p.shell := by
  simp only [Part.restartRead]
  (repeat' split) <;> simp [shell_mk, shell_fold]

@[simp] theorem Part.abandonBlock_shell (p : Part) (b : Nat) : (p.abandonBlock b).shell = p.shell := by
  simp only [Part.abandonBlock]
  rw [foldl_shell _ fun q cl => (Part.makeProbes_shell _).trans (Part.restartRead_shell q cl)]
  rfl

@[simp] theorem Part.blockFor_shell (p : Part) (b : Option Nat) : (p.blockFor b).2.shell = p.shell := by
  simp only [Part.blockFor]
  (repeat' split) <;> simp [shell_mk, shell_fold]

theorem Part.slotFor_shell {p : Part} {a : Option Nat} {s : Nat} {q : Part} (h : p.slotFor a = some (s, q)) :
    q.shell = p.shell := by
  simp only [Part.slotFor] at h
  (repeat' split at h) <;> simp at h <;> (obtain ⟨-, rfl⟩ := h) <;> simp [shell_mk, shell_fold]

@[simp] theorem Part.placeEntry_shell (p : Part) (c : Nat) (k : Key) (entry : LeafEntry) :
    (p.placeEntry c k entry).shell = p.shell := by
  simp only [Part.placeEntry]
  (repeat' split) <;> simp

theorem Part.entryInsertion_shell {p : Part} {c : Nat} {k : Key} {a : Option Nat} {s : Nat} {q : Part}
    (h : p.entryInsertion c k a = .ok (s, q)) : q.shell = p.shell := by
  simp only [Part.entryInsertion] at h
  split at h
  · simp at h
  · cases hs : p.slotFor a with
    | none => simp [hs] at h
    | some r =>
      obtain ⟨s', q'⟩ := r
      rw [hs] at h
      dsimp only at h
      (repeat' split at h) <;> first
        | (simp at h; done)
        | (simp only [Except.ok.injEq, Prod.mk.injEq] at h
           obtain ⟨-, rfl⟩ := h
           simp [Part.slotFor_shell hs])

@[simp] theorem Part.entryRemoval_shell (p : Part) (c : Option Nat) (k : Key) :
    (Part.entryRemoval p c k).shell = p.shell := by
  simp only [Part.entryRemoval]
  (repeat' split) <;> simp [shell_mk, shell_fold]

@[simp] theorem Part.removeEntryOf_shell (p : Part) (c : Option Nat) (slot : Nat) (k : Key) :
    (p.removeEntryOf c slot k).shell = p.shell := by
  simp only [Part.removeEntryOf]
  split <;> simp

@[simp] theorem Part.giveReleased_shell (p : Part) (r : CarrierRecord) (cause : ReleaseCause) (holder : Option Checkout)
    (reason : Option Nat) : (p.giveReleased r cause holder reason).shell = p.shell := by
  simp [Part.giveReleased, foldl_shell]

@[simp] theorem Part.releaseRecord_shell (p : Part) (c : Option Nat) (slot : Nat) (r : CarrierRecord) (cause : ReleaseCause) (reason : Option Nat) :
    (Part.releaseRecord p c slot r cause reason).shell = p.shell := by
  simp only [Part.releaseRecord]
  (repeat' split) <;> simp [shell_mk, shell_fold]

@[simp] theorem Part.askTurn_shell (p : Part) (o : UpdateOwner) : (Part.askTurn p o).shell = p.shell := by
  simp only [Part.askTurn]
  (repeat' split) <;> simp [shell_mk, shell_fold]

@[simp] theorem Part.enrollAct_shell (p : Part) (c : Nat) (k : Key) (cls : Nat) (exposure bakes : Option Nat) :
    (p.enrollAct c k cls exposure bakes).shell = p.shell := by
  simp only [Part.enrollAct]
  split
  · simp
  · rename_i h
    simp [Part.entryInsertion_shell h]

@[simp] theorem Part.relabelAct_shell (p : Part) (c : Nat) (x : Context) (new : Key) :
    (p.relabelAct c x new).shell = p.shell := by
  simp only [Part.relabelAct]
  split
  · rfl
  · split
    · simp
    · rename_i h
      simp [Part.entryInsertion_shell h]

@[simp] theorem Part.retireAct_shell (p : Part) (c : Nat) (x : Context) (reason : Nat) :
    (p.retireAct c x reason).shell = p.shell := by
  simp only [Part.retireAct]
  (repeat' split) <;> simp [foldl_shell]

@[simp] theorem Part.forceRetireAct_shell (p : Part) (c : Nat) (s : Nat) :
    (Part.forceRetireAct p c s).shell = p.shell := by
  simp only [Part.forceRetireAct]
  (repeat' split) <;> simp [shell_mk, shell_fold]

@[simp] theorem Part.updateAct_shell (p : Part) (o : UpdateOwner) : (Part.updateAct p o).shell = p.shell := by
  simp only [Part.updateAct]
  (repeat' split) <;> simp [shell_mk, shell_fold]

@[simp] theorem Part.grantTurn_shell (p : Part) : (Part.grantTurn p).shell = p.shell := by
  simp only [Part.grantTurn]
  (repeat' split) <;> simp [shell_mk, shell_fold]

@[simp] theorem Part.updateRead_shell (p : Part) : (Part.updateRead p).shell = p.shell := by
  simp only [Part.updateRead]
  (repeat' split) <;> simp [shell_mk, shell_fold]

/-! ### Machine/ZoneOps.lean -/

@[simp] theorem Part.issueAdvance_shell (p : Part) : (Part.issueAdvance p).shell = p.shell := by
  simp only [Part.issueAdvance]
  (repeat' split) <;> simp [shell_mk, shell_fold]

@[simp] theorem Part.advanceWhenDone_shell (p : Part) : (Part.advanceWhenDone p).shell = p.shell := by
  simp only [Part.advanceWhenDone]
  (repeat' split) <;> simp [shell_mk, shell_fold]

@[simp] theorem Part.setTimer_shell (p : Part) (t : Nat) (v : Option BakeTimer) :
    (Part.setTimer p t v).shell = p.shell := by
  simp only [Part.setTimer]
  (repeat' split) <;> simp [shell_mk, shell_fold]

@[simp] theorem Part.abortBake_shell (p : Part) (z : Nat) (cause : BakeAbortCause) :
    (Part.abortBake p z cause).shell = p.shell := by
  simp only [Part.abortBake]
  (repeat' split) <;> simp [shell_mk, shell_fold]

@[simp] theorem Part.enterTrip_shell (p : Part) (z : Nat) (cause : TripCause) :
    (Part.enterTrip p z cause).shell = p.shell := by
  simp only [Part.enterTrip]
  (repeat' split) <;> simp [shell_mk, shell_fold]

@[simp] theorem Part.zoneEvent_shell (p : Part) (z : Nat) (cause : TripCause) (f : Zone → Zone) :
    (Part.zoneEvent p z cause f).shell = p.shell := by
  simp only [Part.zoneEvent]
  (repeat' split) <;> simp [shell_mk, shell_fold]

@[simp] theorem Part.applyPendings_shell (p : Part) : (Part.applyPendings p).shell = p.shell := by
  simp only [Part.applyPendings]
  (repeat' split) <;> simp [shell_mk, shell_fold]

@[simp] theorem Part.staleRefresh_shell (p : Part) (minute z : Nat) :
    (Part.staleRefresh p minute z).shell = p.shell := by
  simp only [Part.staleRefresh]
  (repeat' split) <;> simp [shell_mk, shell_fold]

@[simp] theorem Part.countDown_shell (p : Part) (before : Bake) : (Part.countDown p before).shell = p.shell := by
  simp only [Part.countDown]
  (repeat' split) <;> simp [shell_mk, shell_fold]

@[simp] theorem Part.workZone_shell (p : Part) (minute z : Nat) : (Part.workZone p minute z).shell = p.shell := by
  simp only [Part.workZone]
  (repeat' split) <;> simp [shell_mk, shell_fold]

@[simp] theorem Part.zoneWork_shell (p : Part) (minute : Nat) : (p.zoneWork minute).shell = p.shell := by
  simp [Part.zoneWork, foldl_shell, shell_mk, shell_fold]

@[simp] theorem Part.oweTick_shell (p : Part) : (Part.oweTick p).shell = p.shell := by
  simp only [Part.oweTick]
  (repeat' split) <;> simp [shell_mk, shell_fold]

@[simp] theorem Part.tick_shell (p : Part) : (Part.tick p).shell = p.shell := by
  simp only [Part.tick]
  (repeat' split) <;> simp [shell_mk, shell_fold]

@[simp] theorem Part.completeBake_shell (p : Part) (z : Nat) : (Part.completeBake p z).shell = p.shell := by
  simp only [Part.completeBake]
  (repeat' split) <;> simp [shell_mk, shell_fold]

@[simp] theorem Part.setBusy_shell (p : Part) (l : Nat) (b : Bool) : (Part.setBusy p l b).shell = p.shell := by
  simp only [Part.setBusy]
  (repeat' split) <;> simp [shell_mk, shell_fold]

@[simp] theorem Part.receiveOrder_shell (p : Part) (o : WalkOrder) : (p.receiveOrder o).shell = p.shell := by
  simp only [Part.receiveOrder]
  rw [foldl_shell]
  · rfl
  · intro q b
    split <;> simp

@[simp] theorem Part.beginOwed_shell (p : Part) : (Part.beginOwed p).shell = p.shell := by
  simp only [Part.beginOwed]
  (repeat' split) <;> simp [shell_mk, shell_fold]

@[simp] theorem Part.beginGap_shell (p : Part) : (Part.beginGap p).shell = p.shell := by
  simp only [Part.beginGap]
  (repeat' split) <;> simp [shell_mk, shell_fold]

@[simp] theorem Part.takeClimate_shell (p : Part) (z : Nat) (temperature : Int) (humidity : Nat) :
    (Part.takeClimate p z temperature humidity).2.2.shell = p.shell := by
  simp only [Part.takeClimate]
  (repeat' split) <;> simp [shell_mk, shell_fold]

@[simp] theorem Part.takeTrip_shell (p : Part) (z : Nat) : (Part.takeTrip p z).2.2.shell = p.shell := by
  simp only [Part.takeTrip]
  (repeat' split) <;> simp [shell_mk, shell_fold]

@[simp] theorem Part.takeClearTrip_shell (p : Part) (z : Nat) : (Part.takeClearTrip p z).2.2.shell = p.shell := by
  simp only [Part.takeClearTrip]
  (repeat' split) <;> simp [shell_mk, shell_fold]

@[simp] theorem Part.takeBakeStart_shell (p : Part) (z minutes : Nat) :
    (Part.takeBakeStart p z minutes).2.2.shell = p.shell := by
  simp only [Part.takeBakeStart]
  (repeat' split) <;> simp [shell_mk, shell_fold]

@[simp] theorem Part.takeBakeStop_shell (p : Part) (z : Nat) : (Part.takeBakeStop p z).2.2.shell = p.shell := by
  simp only [Part.takeBakeStop]
  (repeat' split) <;> simp [shell_mk, shell_fold]

@[simp] theorem Part.takeZoneSet_shell (p : Part) (c z : Nat) (kind capacity fallback stale mode : Option Nat) :
    (Part.takeZoneSet p c z kind capacity fallback stale mode).2.2.shell = p.shell := by
  simp only [Part.takeZoneSet]
  (repeat' split) <;> simp [shell_mk, shell_fold]

@[simp] theorem Part.takeReport_shell (p : Part) (r : WalkReport) : (Part.takeReport p r).shell = p.shell := by
  simp only [Part.takeReport]
  (repeat' split) <;> simp [shell_mk, shell_fold]

/-! ### Machine/DueLists.lean -/

@[simp] theorem Part.giveTallyNotice_shell (p : Part) (kind : NoticeKind) (n : Nat) (r : Resident) :
    (p.giveTallyNotice kind n r).shell = p.shell := by
  simp only [Part.giveTallyNotice]
  rw [foldl_shell]
  · simp
  · intro q b
    split <;> simp

@[simp] theorem Part.relink_shell (p : Part) (l : Nat) (cmd : Option Nat) : (p.relink l cmd).shell = p.shell := by
  simp only [Part.relink]
  rw [foldl_shell]
  intro q b
  (repeat' split) <;> simp

@[simp] theorem Part.setCursors_shell (p : Part) (l : Nat) : (Part.setCursors p l).shell = p.shell := by
  simp only [Part.setCursors]
  (repeat' split) <;> simp [shell_mk, shell_fold]

@[simp] theorem Part.expireAt_shell (p : Part) (l n : Nat) (r : Resident) :
    (Part.expireAt p l n r).shell = p.shell := by
  simp only [Part.expireAt]
  (repeat' split) <;> simp [shell_mk, shell_fold]

@[simp] theorem Part.warnAt_shell (p : Part) (l n : Nat) (r : Resident) : (Part.warnAt p l n r).shell = p.shell := by
  simp only [Part.warnAt]
  (repeat' split) <;> simp [shell_mk, shell_fold]

@[simp] theorem Part.expireDue_shell (l m fuel : Nat) (p : Part) : (Part.expireDue l m fuel p).shell = p.shell := by
  induction fuel generalizing p with
  | zero => rfl
  | succ k ih =>
    simp only [Part.expireDue]
    (repeat' split) <;> simp [ih]

@[simp] theorem Part.warnDue_shell (l m fuel : Nat) (p : Part) : (Part.warnDue l m fuel p).shell = p.shell := by
  induction fuel generalizing p with
  | zero => rfl
  | succ k ih =>
    simp only [Part.warnDue]
    (repeat' split) <;> simp [ih]

@[simp] theorem Part.bringCurrent_shell (p : Part) (l : Nat) : (Part.bringCurrent p l).shell = p.shell := by
  simp only [Part.bringCurrent]
  (repeat' split) <;> simp [shell_mk, shell_fold]

@[simp] theorem Part.releaseList_shell (p : Part) (l : Nat) : (Part.releaseList p l).shell = p.shell := by
  simp only [Part.releaseList]
  (repeat' split) <;> simp [shell_mk, shell_fold]

@[simp] theorem Part.takeSeq_shell (p : Part) : p.takeSeq.2.shell = p.shell := rfl

@[simp] theorem Part.placeTally_shell (p : Part) (l n m due warn : Nat) (after : Option Nat) (cmd : Option Nat) :
    (p.placeTally l n m due warn after cmd).shell = p.shell := by
  simp only [Part.placeTally, Part.takeSeq]
  (repeat' split) <;> simp [shell_mk, shell_fold]

@[simp] theorem Part.startInsertion_shell (p : Part) (cmd n : Nat) (r : Resident) :
    (Part.startInsertion p cmd n r).shell = p.shell := by
  simp only [Part.startInsertion]
  (repeat' split) <;> simp [shell_mk, shell_fold]

@[simp] theorem Part.unlist_shell (p : Part) (n : Nat) (r : Resident) (cmd : Option Nat) :
    (Part.unlist p n r cmd).shell = p.shell := by
  simp only [Part.unlist]
  (repeat' split) <;> simp [shell_mk, shell_fold]

@[simp] theorem Part.exhaustTally_shell (p : Part) (n : Nat) (r : Resident) :
    (Part.exhaustTally p n r).shell = p.shell := by
  simp only [Part.exhaustTally]
  (repeat' split) <;> simp [shell_mk, shell_fold]

@[simp] theorem Part.resetTally_shell (p : Part) (n : Nat) (r : Resident) : (p.resetTally n r).shell = p.shell := by
  simp [Part.resetTally, Part.takeSeq, shell_mk, shell_fold]

@[simp] theorem Part.bakeVisit_shell (p : Part) (b : BakeWalk) (n : Nat) : (p.bakeVisit b n).2.shell = p.shell := by
  simp only [Part.bakeVisit]
  (repeat' split) <;> simp

@[simp] theorem Part.reform_shell (p : Part) (l : Nat) (b : BakeWalk) : (Part.reform p l b).shell = p.shell := by
  simp only [Part.reform]
  (repeat' split) <;> simp [shell_mk, shell_fold]

@[simp] theorem Part.setBakeWalk_shell (p : Part) (b : BakeWalk) : (Part.setBakeWalk p b).shell = p.shell := by
  simp only [Part.setBakeWalk]
  (repeat' split) <;> simp [shell_mk, shell_fold]

@[simp] theorem Part.endBakeWalk_shell (p : Part) (b : BakeWalk) : (p.endBakeWalk b).shell = p.shell := by
  simp [Part.endBakeWalk, foldl_shell, shell_mk, shell_fold]

@[simp] theorem Part.bakeListDone_shell (p : Part) (b : BakeWalk) : (Part.bakeListDone p b).shell = p.shell := by
  simp only [Part.bakeListDone]
  (repeat' split) <;> simp [shell_mk, shell_fold]

@[simp] theorem Part.bakeStep_shell (p : Part) (b : BakeWalk) : (p.bakeStep b).shell = p.shell := by
  simp only [Part.bakeStep]
  split
  · simp
  · cases b.visit <;> simp only <;> (repeat' split) <;> simp

/-! ### Machine/Completion.lean -/

@[simp] theorem Part.memberGone_shell (p : Part) (c b slot : Nat) : (Part.memberGone p c b slot).shell = p.shell := by
  simp only [Part.memberGone]
  (repeat' split) <;> simp [shell_mk, shell_fold]

@[simp] theorem Part.partMember_shell (p : Part) (c b slot : Nat) : (Part.partMember p c b slot).shell = p.shell := by
  simp only [Part.partMember]
  (repeat' split) <;> simp [shell_mk, shell_fold]

@[simp] theorem Part.bagFreed_shell (p : Part) (c b : Nat) : (Part.bagFreed p c b).shell = p.shell := by
  simp only [Part.bagFreed]
  (repeat' split) <;> simp [shell_mk, shell_fold]

@[simp] theorem Part.bagFormed_shell (p : Part) (c b : Nat) (members : List Nat) :
    (p.bagFormed c b members).shell = p.shell := by
  simp only [Part.bagFormed]
  split <;> simp [foldl_shell]

@[simp] theorem Part.checkoutRead_shell (p : Part) (c : Nat) (x : Context) (station : Nat) (t : Tally) :
    (Part.checkoutRead p c x station t).shell = p.shell := by
  simp only [Part.checkoutRead]
  (repeat' split) <;> simp [shell_mk, shell_fold]

@[simp] theorem Part.retirementDone_shell (p : Part) (slot : Nat) : (Part.retirementDone p slot).shell = p.shell := by
  simp only [Part.retirementDone]
  (repeat' split) <;> simp [shell_mk, shell_fold]

@[simp] theorem Part.enrollDone_shell (p : Part) (c : Nat) (op : TallyOp) (result : Status) :
    (Part.enrollDone p c op result).shell = p.shell := by
  simp only [Part.enrollDone]
  (repeat' split) <;> simp [shell_mk, shell_fold]

@[simp] theorem Part.openDone_shell (p : Part) (c : Nat) (keys : List Key) (zone : Nat) (op : TallyOp) (result : Status) :
    (Part.openDone p c keys zone op result).shell = p.shell := by
  simp only [Part.openDone]
  (repeat' split) <;> simp [shell_mk, shell_fold]

@[simp] theorem Part.joinDone_shell (p : Part) (c : Nat) (zone : Nat) (op : TallyOp) (result : Status) :
    (Part.joinDone p c zone op result).shell = p.shell := by
  simp only [Part.joinDone]
  (repeat' split) <;> simp [shell_mk, shell_fold]

@[simp] theorem Part.moveDone_shell (p : Part) (c : Nat) (k : Key) (zone : Nat) (cmd : TallyCmd) (result : Status) :
    (Part.moveDone p c k zone cmd result).shell = p.shell := by
  simp only [Part.moveDone]
  (repeat' split) <;> simp [shell_mk, shell_fold]

@[simp] theorem Part.sealDone_shell (p : Part) (c : Nat) (k : Key) (cmd : TallyCmd) (result : Status) :
    (Part.sealDone p c k cmd result).shell = p.shell := by
  simp only [Part.sealDone]
  (repeat' split) <;> simp [shell_mk, shell_fold]

@[simp] theorem Part.retireDone_shell (p : Part) (c : Nat) (x : Context) (op : TallyOp) (result : Status) :
    (Part.retireDone p c x op result).shell = p.shell := by
  simp only [Part.retireDone]
  (repeat' split) <;> simp [shell_mk, shell_fold]

@[simp] theorem Part.forceRetireDone_shell (p : Part) (c : Nat) (x : Context) (op : TallyOp) (result : Status) :
    (Part.forceRetireDone p c x op result).shell = p.shell := by
  simp only [Part.forceRetireDone]
  (repeat' split) <;> simp [shell_mk, shell_fold]

@[simp] theorem Part.moveGroupDone_shell (p : Part) (c b zone : Nat) (x : Context) (op : TallyOp) (result : Status) :
    (Part.moveGroupDone p c b zone x op result).shell = p.shell := by
  simp only [Part.moveGroupDone]
  (repeat' split) <;> simp [shell_mk, shell_fold]

@[simp] theorem Part.afterCommand_shell (p : Part) (c : Nat) (x : Context) (cmd : TallyCmd) (result : Status) (page : DuePage) :
    (Part.afterCommand p c x cmd result page).shell = p.shell := by
  simp only [Part.afterCommand]
  (repeat' split) <;> simp [shell_mk, shell_fold]

@[simp] theorem Part.completeCommand_shell (p : Part) (cmd : TallyCmd) (result : Status) (page : DuePage) :
    (Part.completeCommand p cmd result page).shell = p.shell := by
  simp only [Part.completeCommand]
  (repeat' split) <;> simp [shell_mk, shell_fold]

/-! ### Machine/TallyUnit.lean -/

@[simp] theorem Part.serveMark_shell (p : Part) (l : Nat) : (Part.serveMark p l).shell = p.shell := by
  simp only [Part.serveMark]
  (repeat' split) <;> simp [shell_mk, shell_fold]

@[simp] theorem Part.addOccupancy_shell (p : Part) (z n : Nat) : (Part.addOccupancy p z n).shell = p.shell := by
  simp only [Part.addOccupancy]
  (repeat' split) <;> simp [shell_mk, shell_fold]

@[simp] theorem Part.subOccupancy_shell (p : Part) (z n : Nat) : (Part.subOccupancy p z n).shell = p.shell := by
  simp only [Part.subOccupancy]
  (repeat' split) <;> simp [shell_mk, shell_fold]

@[simp] theorem Part.addUse_shell (p : Part) (cls : Nat) : (Part.addUse p cls).shell = p.shell := by
  simp only [Part.addUse]
  (repeat' split) <;> simp [shell_mk, shell_fold]

@[simp] theorem Part.subUse_shell (p : Part) (cls : Nat) : (Part.subUse p cls).shell = p.shell := by
  simp only [Part.subUse]
  (repeat' split) <;> simp [shell_mk, shell_fold]

@[simp] theorem Part.setCmd_shell (p : Part) (id : Nat) (f : TallyCmd → TallyCmd) :
    (Part.setCmd p id f).shell = p.shell := by
  simp only [Part.setCmd]
  (repeat' split) <;> simp [shell_mk, shell_fold]

@[simp] theorem Part.finishCommand_shell (p : Part) (id : Nat) : (Part.finishCommand p id).shell = p.shell := by
  simp only [Part.finishCommand]
  (repeat' split) <;> simp [shell_mk, shell_fold]

@[simp] theorem Part.insertOrFinish_shell (p : Part) (id n : Nat) (r : Resident) :
    (Part.insertOrFinish p id n r).shell = p.shell := by
  simp only [Part.insertOrFinish]
  (repeat' split) <;> simp [shell_mk, shell_fold]

@[simp] theorem Part.bringListed_shell (p : Part) (zone cls : Nat) :
    (Part.bringListed p zone cls).shell = p.shell := by
  simp only [Part.bringListed]
  (repeat' split) <;> simp [shell_mk, shell_fold]

@[simp] theorem Part.moveOn_shell (p : Part) (id n : Nat) (r : Resident) (z : Nat) :
    (Part.moveOn p id n r z).shell = p.shell := by
  simp only [Part.moveOn]
  (repeat' split) <;> simp [shell_mk, shell_fold]

@[simp] theorem Part.takeCreate_shell (p : Part) (id n : Nat) (k : Key) (cls exposure bakes : Nat) :
    (Part.takeCreate p id n k cls exposure bakes).shell = p.shell := by
  simp only [Part.takeCreate]
  (repeat' split) <;> simp [shell_mk, shell_fold]

@[simp] theorem Part.takeArm_shell (p : Part) (id n z : Nat) : (Part.takeArm p id n z).shell = p.shell := by
  simp only [Part.takeArm]
  (repeat' split) <;> simp [shell_mk, shell_fold]

@[simp] theorem Part.takeMove_shell (p : Part) (id n z : Nat) : (Part.takeMove p id n z).shell = p.shell := by
  simp only [Part.takeMove]
  (repeat' split) <;> simp [shell_mk, shell_fold]

@[simp] theorem Part.takeSeal_shell (p : Part) (id n : Nat) : (Part.takeSeal p id n).shell = p.shell := by
  simp only [Part.takeSeal]
  (repeat' split) <;> simp [shell_mk, shell_fold]

@[simp] theorem Part.takeJoin_shell (p : Part) (id bag : Nat) (ms : List Nat) (z : Nat) :
    (p.takeJoin id bag ms z).shell = p.shell := by
  simp only [Part.takeJoin]
  simp only [Part.insertOrFinish_shell, Part.addOccupancy_shell]
  rw [foldl_shell]
  · simp
  · intro q b
    split <;> simp

@[simp] theorem Part.placeSplit_shell (p : Part) (id n : Nat) (r : Resident) :
    (p.placeSplit id n r).shell = p.shell := by
  simp only [Part.placeSplit, Part.takeSeq]
  split <;> simp [shell_mk, shell_fold]

@[simp] theorem Part.takeSplit_shell (p : Part) (id bag n : Nat) (z : Option Nat) :
    (Part.takeSplit p id bag n z).shell = p.shell := by
  simp only [Part.takeSplit]
  (repeat' split) <;> simp [shell_mk, shell_fold]

@[simp] theorem Part.takeLeave_shell (p : Part) (id n bag : Nat) : (Part.takeLeave p id n bag).shell = p.shell := by
  simp only [Part.takeLeave]
  (repeat' split) <;> simp [shell_mk, shell_fold]

@[simp] theorem Part.takeFree_shell (p : Part) (id n : Nat) : (Part.takeFree p id n).shell = p.shell := by
  simp only [Part.takeFree]
  (repeat' split) <;> simp [shell_mk, shell_fold]

@[simp] theorem Part.takeRead_shell (p : Part) (id n : Nat) : (Part.takeRead p id n).shell = p.shell := by
  simp only [Part.takeRead]
  (repeat' split) <;> simp [shell_mk, shell_fold]

@[simp] theorem Part.takeListDue_shell (p : Part) (id z cls skip want : Nat) :
    (Part.takeListDue p id z cls skip want).shell = p.shell := by
  simp only [Part.takeListDue]
  (repeat' split) <;> simp [shell_mk, shell_fold]

theorem Part.takeCommand_shell (p : Part) (c : TallyCmd) (work : Part → Part) (h : ∀ q, (work q).shell = q.shell) :
    (p.takeCommand c work).shell = p.shell := by
  simp only [Part.takeCommand]
  split <;> simp [h, shell_mk, shell_fold]

@[simp] theorem Part.insertionStep_shell (p : Part) (l cmd n m due warn : Nat) (pos : Option Nat) :
    (Part.insertionStep p l cmd n m due warn pos).shell = p.shell := by
  simp only [Part.insertionStep]
  (repeat' split) <;> simp [shell_mk, shell_fold]

@[simp] theorem Part.endListDue_shell (p : Part) (l id : Nat) (page : DuePage) :
    (Part.endListDue p l id page).shell = p.shell := by
  simp only [Part.endListDue]
  (repeat' split) <;> simp [shell_mk, shell_fold]

@[simp] theorem Part.listDueStep_shell (p : Part) (l id skip want : Nat) (rest : List Nat) (page : DuePage) :
    (Part.listDueStep p l id skip want rest page).shell = p.shell := by
  simp only [Part.listDueStep]
  (repeat' split) <;> simp [shell_mk, shell_fold]

/-! ### Machine/CarrierRequests.lean -/

theorem performEnroll_shell (c : Nat) (p : Part) (x : Context) :
    ∀ q, performEnroll c p x = some q → q.shell = p.shell := by
  intro q h
  simp only [performEnroll] at h
  (repeat' split at h) <;> first | (cases h; simp [shell_mk, shell_fold]; done) | (simp at h; done)

@[simp] theorem Part.readAccount_shell (p : Part) (c : Nat) (e : CacheEntry) :
    (Part.readAccount p c e).shell = p.shell := by
  simp only [Part.readAccount]
  (repeat' split) <;> simp [shell_mk, shell_fold]

theorem performLookup_shell (c : Nat) (p : Part) (x : Context) :
    ∀ q, performLookup c p x = some q → q.shell = p.shell := by
  intro q h
  simp only [performLookup] at h
  (repeat' split at h) <;> first | (cases h; simp [shell_mk, shell_fold]; done) | (simp at h; done)

theorem performVerify_shell (c : Nat) (p : Part) (x : Context) :
    ∀ q, performVerify c p x = some q → q.shell = p.shell := by
  intro q h
  simp only [performVerify] at h
  (repeat' split at h) <;> first | (cases h; simp [shell_mk, shell_fold]; done) | (simp at h; done)

theorem performOpenOne_shell (c : Nat) (p : Part) (x : Context) :
    ∀ q, performOpenOne c p x = some q → q.shell = p.shell := by
  intro q h
  simp only [performOpenOne] at h
  (repeat' split at h) <;> first | (cases h; simp [shell_mk, shell_fold]; done) | (simp at h; done)

theorem performMultiOpen_shell (c : Nat) (p : Part) (x : Context) :
    ∀ q, performMultiOpen c p x = some q → q.shell = p.shell := by
  intro q h
  simp only [performMultiOpen] at h
  (repeat' split at h) <;> first | (cases h; simp [shell_mk, shell_fold]; done) | (simp at h; done)

theorem performMove_shell (c : Nat) (p : Part) (x : Context) :
    ∀ q, performMove c p x = some q → q.shell = p.shell := by
  intro q h
  simp only [performMove] at h
  (repeat' split at h) <;> first | (cases h; simp [shell_mk, shell_fold]; done) | (simp at h; done)

theorem performSeal_shell (c : Nat) (p : Part) (x : Context) :
    ∀ q, performSeal c p x = some q → q.shell = p.shell := by
  intro q h
  simp only [performSeal] at h
  (repeat' split at h) <;> first | (cases h; simp [shell_mk, shell_fold]; done) | (simp at h; done)

theorem performRetire_shell (c : Nat) (p : Part) (x : Context) :
    ∀ q, performRetire c p x = some q → q.shell = p.shell := by
  intro q h
  simp only [performRetire] at h
  (repeat' split at h) <;> first | (cases h; simp [shell_mk, shell_fold]; done) | (simp at h; done)

theorem performRelabel_shell (c : Nat) (p : Part) (x : Context) :
    ∀ q, performRelabel c p x = some q → q.shell = p.shell := by
  intro q h
  simp only [performRelabel] at h
  (repeat' split at h) <;> first | (cases h; simp [shell_mk, shell_fold]; done) | (simp at h; done)

@[simp] theorem Part.checkoutHeld_shell (p : Part) (c : Nat) (x : Context) (e : CacheEntry) (i : Nat) (co : Checkout) (station watch : Nat) :
    (Part.checkoutHeld p c x e i co station watch).shell = p.shell := by
  simp only [Part.checkoutHeld]
  (repeat' split) <;> simp [shell_mk, shell_fold]

theorem performCheckout_shell (c : Nat) (p : Part) (x : Context) :
    ∀ q, performCheckout c p x = some q → q.shell = p.shell := by
  intro q h
  simp only [performCheckout] at h
  (repeat' split at h) <;> first | (cases h; simp [shell_mk, shell_fold]; done) | (simp at h; done)

theorem performRelease_shell (c : Nat) (p : Part) (x : Context) :
    ∀ q, performRelease c p x = some q → q.shell = p.shell := by
  intro q h
  simp only [performRelease] at h
  (repeat' split at h) <;> first | (cases h; simp [shell_mk, shell_fold]; done) | (simp at h; done)

@[simp] theorem Part.moveGroup_shell (p : Part) (c : Nat) (x : Context) (b z : Nat) (es : List CacheEntry) :
    (Part.moveGroup p c x b z es).shell = p.shell := by
  simp only [Part.moveGroup]
  (repeat' split) <;> simp [shell_mk, shell_fold]

theorem performMoveGroup_shell (c : Nat) (p : Part) (x : Context) :
    ∀ q, performMoveGroup c p x = some q → q.shell = p.shell := by
  intro q h
  simp only [performMoveGroup] at h
  (repeat' split at h) <;> first | (cases h; simp [shell_mk, shell_fold]; done) | (simp at h; done)

theorem performListBag_shell (c : Nat) (p : Part) (x : Context) :
    ∀ q, performListBag c p x = some q → q.shell = p.shell := by
  intro q h
  simp only [performListBag] at h
  (repeat' split at h) <;> first | (cases h; simp [shell_mk, shell_fold]; done) | (simp at h; done)

theorem performListDue_shell (c : Nat) (p : Part) (x : Context) :
    ∀ q, performListDue c p x = some q → q.shell = p.shell := by
  intro q h
  simp only [performListDue] at h
  (repeat' split at h) <;> first | (cases h; simp [shell_mk, shell_fold]; done) | (simp at h; done)

theorem performListCheckouts_shell (c : Nat) (p : Part) (x : Context) :
    ∀ q, performListCheckouts c p x = some q → q.shell = p.shell := by
  intro q h
  simp only [performListCheckouts] at h
  (repeat' split at h) <;> first | (cases h; simp [shell_mk, shell_fold]; done) | (simp at h; done)

@[simp] theorem Part.carrierHold_shell (p : Part) (c : Nat) (x : Context) (un : Bool) (k : Key) (reason : Nat) :
    (Part.carrierHold p c x un k reason).shell = p.shell := by
  simp only [Part.carrierHold]
  (repeat' split) <;> simp [shell_mk, shell_fold]

@[simp] theorem Part.bagHold_shell (p : Part) (c : Nat) (un : Bool) (b reason : Nat) :
    (Part.bagHold p c un b reason).shell = p.shell := by
  simp only [Part.bagHold]
  (repeat' split) <;> simp [shell_mk, shell_fold]

@[simp] theorem Part.lotHold_shell (p : Part) (c con lot : Nat) : (Part.lotHold p c con lot).shell = p.shell := by
  simp only [Part.lotHold]
  (repeat' split) <;> simp [shell_mk, shell_fold]

theorem performHoldCarrier_shell (c : Nat) (p : Part) (x : Context) :
    ∀ q, performHoldCarrier c p x = some q → q.shell = p.shell := by
  intro q h
  simp only [performHoldCarrier] at h
  (repeat' split at h) <;> first | (cases h; simp [shell_mk, shell_fold]; done) | (simp at h; done)

theorem performHoldBag_shell (c : Nat) (p : Part) (x : Context) :
    ∀ q, performHoldBag c p x = some q → q.shell = p.shell := by
  intro q h
  simp only [performHoldBag] at h
  (repeat' split at h) <;> first | (cases h; simp [shell_mk, shell_fold]; done) | (simp at h; done)

theorem performHoldLot_shell (c : Nat) (p : Part) (x : Context) :
    ∀ q, performHoldLot c p x = some q → q.shell = p.shell := by
  intro q h
  simp only [performHoldLot] at h
  (repeat' split at h) <;> first | (cases h; simp [shell_mk, shell_fold]; done) | (simp at h; done)

theorem performHoldConsignor_shell (c : Nat) (p : Part) (x : Context) :
    ∀ q, performHoldConsignor c p x = some q → q.shell = p.shell := by
  intro q h
  simp only [performHoldConsignor] at h
  (repeat' split at h) <;> first | (cases h; simp [shell_mk, shell_fold]; done) | (simp at h; done)

theorem performUnholdCarrier_shell (c : Nat) (p : Part) (x : Context) :
    ∀ q, performUnholdCarrier c p x = some q → q.shell = p.shell := by
  intro q h
  simp only [performUnholdCarrier] at h
  (repeat' split at h) <;> first | (cases h; simp [shell_mk, shell_fold]; done) | (simp at h; done)

theorem performUnholdBag_shell (c : Nat) (p : Part) (x : Context) :
    ∀ q, performUnholdBag c p x = some q → q.shell = p.shell := by
  intro q h
  simp only [performUnholdBag] at h
  (repeat' split at h) <;> first | (cases h; simp [shell_mk, shell_fold]; done) | (simp at h; done)

theorem performUnholdLot_shell (c : Nat) (p : Part) (x : Context) :
    ∀ q, performUnholdLot c p x = some q → q.shell = p.shell := by
  intro q h
  simp only [performUnholdLot] at h
  (repeat' split at h) <;> first | (cases h; simp [shell_mk, shell_fold]; done) | (simp at h; done)

theorem performUnholdConsignor_shell (c : Nat) (p : Part) (x : Context) :
    ∀ q, performUnholdConsignor c p x = some q → q.shell = p.shell := by
  intro q h
  simp only [performUnholdConsignor] at h
  (repeat' split at h) <;> first | (cases h; simp [shell_mk, shell_fold]; done) | (simp at h; done)

/-! ### Machine/SupervisoryRequests.lean -/

@[simp] theorem Part.zoneAnswer_shell (c : Nat) (a : Status × Body × Part) :
    (Part.zoneAnswer c a).shell = a.2.2.shell := by
  simp only [Part.zoneAnswer]
  (repeat' split) <;> simp [shell_mk, shell_fold]

theorem performClimate_shell (c : Nat) (p : Part) (x : Context) :
    ∀ q, performClimate c p x = some q → q.shell = p.shell := by
  intro q h
  simp only [performClimate] at h
  (repeat' split at h) <;> first | (cases h; simp [shell_mk, shell_fold]; done) | (simp at h; done)

theorem performTrip_shell (c : Nat) (p : Part) (x : Context) :
    ∀ q, performTrip c p x = some q → q.shell = p.shell := by
  intro q h
  simp only [performTrip] at h
  (repeat' split at h) <;> first | (cases h; simp [shell_mk, shell_fold]; done) | (simp at h; done)

theorem performClearTrip_shell (c : Nat) (p : Part) (x : Context) :
    ∀ q, performClearTrip c p x = some q → q.shell = p.shell := by
  intro q h
  simp only [performClearTrip] at h
  (repeat' split at h) <;> first | (cases h; simp [shell_mk, shell_fold]; done) | (simp at h; done)

theorem performBakeStart_shell (c : Nat) (p : Part) (x : Context) :
    ∀ q, performBakeStart c p x = some q → q.shell = p.shell := by
  intro q h
  simp only [performBakeStart] at h
  (repeat' split at h) <;> first | (cases h; simp [shell_mk, shell_fold]; done) | (simp at h; done)

theorem performBakeStop_shell (c : Nat) (p : Part) (x : Context) :
    ∀ q, performBakeStop c p x = some q → q.shell = p.shell := by
  intro q h
  simp only [performBakeStop] at h
  (repeat' split at h) <;> first | (cases h; simp [shell_mk, shell_fold]; done) | (simp at h; done)

theorem performZoneSet_shell (c : Nat) (p : Part) (x : Context) :
    ∀ q, performZoneSet c p x = some q → q.shell = p.shell := by
  intro q h
  simp only [performZoneSet] at h
  (repeat' split at h) <;> first | (cases h; simp [shell_mk, shell_fold]; done) | (simp at h; done)

theorem performClassSet_shell (c : Nat) (p : Part) (x : Context) :
    ∀ q, performClassSet c p x = some q → q.shell = p.shell := by
  intro q h
  simp only [performClassSet] at h
  (repeat' split at h) <;> first | (cases h; simp [shell_mk, shell_fold]; done) | (simp at h; done)

theorem performBandSet_shell (c : Nat) (p : Part) (x : Context) :
    ∀ q, performBandSet c p x = some q → q.shell = p.shell := by
  intro q h
  simp only [performBandSet] at h
  (repeat' split at h) <;> first | (cases h; simp [shell_mk, shell_fold]; done) | (simp at h; done)

theorem performWeightSet_shell (c : Nat) (p : Part) (x : Context) :
    ∀ q, performWeightSet c p x = some q → q.shell = p.shell := by
  intro q h
  simp only [performWeightSet] at h
  (repeat' split at h) <;> first | (cases h; simp [shell_mk, shell_fold]; done) | (simp at h; done)

theorem performPortSet_shell (c : Nat) (p : Part) (x : Context) :
    ∀ q, performPortSet c p x = some q → q.shell = p.shell := by
  intro q h
  simp only [performPortSet] at h
  (repeat' split at h) <;> first | (cases h; simp [shell_mk, shell_fold]; done) | (simp at h; done)

theorem performConsignorSet_shell (c : Nat) (p : Part) (x : Context) :
    ∀ q, performConsignorSet c p x = some q → q.shell = p.shell := by
  intro q h
  simp only [performConsignorSet] at h
  (repeat' split at h) <;> first | (cases h; simp [shell_mk, shell_fold]; done) | (simp at h; done)

theorem performRouteSet_shell (c : Nat) (p : Part) (x : Context) :
    ∀ q, performRouteSet c p x = some q → q.shell = p.shell := by
  intro q h
  simp only [performRouteSet] at h
  (repeat' split at h) <;> first | (cases h; simp [shell_mk, shell_fold]; done) | (simp at h; done)

@[simp] theorem Part.beginRange_shell (p : Part) : (Part.beginRange p).shell = p.shell := by
  simp only [Part.beginRange]
  (repeat' split) <;> simp [shell_mk, shell_fold]

theorem performExemptSet_shell (c : Nat) (p : Part) (x : Context) :
    ∀ q, performExemptSet c p x = some q → q.shell = p.shell := by
  intro q h
  simp only [performExemptSet] at h
  (repeat' split at h) <;> first | (cases h; simp [shell_mk, shell_fold]; done) | (simp at h; done)

theorem performTimeSet_shell (c : Nat) (p : Part) (x : Context) :
    ∀ q, performTimeSet c p x = some q → q.shell = p.shell := by
  intro q h
  simp only [performTimeSet] at h
  (repeat' split at h) <;> first | (cases h; simp [shell_mk, shell_fold]; done) | (simp at h; done)

theorem performForceRetire_shell (c : Nat) (p : Part) (x : Context) :
    ∀ q, performForceRetire c p x = some q → q.shell = p.shell := by
  intro q h
  simp only [performForceRetire] at h
  (repeat' split at h) <;> first | (cases h; simp [shell_mk, shell_fold]; done) | (simp at h; done)

theorem performFaultClear_shell (c : Nat) (p : Part) (x : Context) :
    ∀ q, performFaultClear c p x = some q → q.shell = p.shell := by
  intro q h
  simp only [performFaultClear] at h
  (repeat' split at h) <;> first | (cases h; simp [shell_mk, shell_fold]; done) | (simp at h; done)

theorem performStatus_shell (c : Nat) (p : Part) (x : Context) :
    ∀ q, performStatus c p x = some q → q.shell = p.shell := by
  intro q h
  simp only [performStatus] at h
  (repeat' split at h) <;> first | (cases h; simp [shell_mk, shell_fold]; done) | (simp at h; done)

theorem performReleaseAll_shell (c : Nat) (p : Part) (x : Context) :
    ∀ q, performReleaseAll c p x = some q → q.shell = p.shell := by
  intro q h
  simp only [performReleaseAll] at h
  (repeat' split at h) <;> first | (cases h; simp [shell_mk, shell_fold]; done) | (simp at h; done)

@[simp] theorem Part.releaseAllOn_shell (p : Part) (ra : ReleaseAll) : (Part.releaseAllOn p ra).shell = p.shell := by
  simp only [Part.releaseAllOn]
  (repeat' split) <;> simp [shell_mk, shell_fold]

@[simp] theorem Part.releaseAllRelease_shell (p : Part) (ra : ReleaseAll) (slot : Nat) (r : CarrierRecord) :
    (Part.releaseAllRelease p ra slot r).shell = p.shell := by
  simp only [Part.releaseAllRelease]
  (repeat' split) <;> simp [shell_mk, shell_fold]

@[simp] theorem Part.releaseAllStep_shell (p : Part) (ra : ReleaseAll) :
    (Part.releaseAllStep p ra).shell = p.shell := by
  simp only [Part.releaseAllStep]
  (repeat' split) <;> simp [shell_mk, shell_fold]

@[simp] theorem Part.releaseAllRead_shell (p : Part) (ra : ReleaseAll) (r : Option CarrierRecord) (checked : Bool) :
    (p.releaseAllRead ra r checked).shell = p.shell := by
  simp only [Part.releaseAllRead]
  (repeat' split) <;> simp [Part.declareFault_shell]

theorem performRestart_shell (c : Nat) (p : Part) (x : Context) :
    ∀ q, performRestart c p x = some q → q.shell = p.shell := by
  intro q h
  simp only [performRestart] at h
  (repeat' split at h) <;> first | (cases h; simp [shell_mk, shell_fold]; done) | (simp at h; done)

theorem performFormat_shell (c : Nat) (p : Part) (x : Context) :
    ∀ q, performFormat c p x = some q → q.shell = p.shell := by
  intro q h
  simp only [performFormat] at h
  (repeat' split at h) <;> first | (cases h; simp [shell_mk, shell_fold]; done) | (simp at h; done)

theorem Part.performRow_shell (p : Part) (c : Nat) (row : Nat → Part → Context → Option Part)
    (h : ∀ p x q, row c p x = some q → q.shell = p.shell) : (p.performRow c row).shell = p.shell := by
  simp only [Part.performRow]
  split
  · split
    · rfl
    · rename_i x _
      cases hr : row c (p.beginPerform c x).1 (p.beginPerform c x).2 with
      | none => simp
      | some q => simp [h _ _ _ hr]
  · rfl

theorem performances_shell : ∀ f ∈ performances, ∀ c p x q, f c p x = some q → q.shell = p.shell := by
  intro f hf c p x q h
  simp only [performances, List.mem_cons, List.not_mem_nil, or_false] at hf
  rcases hf with rfl | rfl | rfl | rfl | rfl | rfl | rfl | rfl | rfl | rfl | rfl | rfl | rfl | rfl | rfl | rfl | rfl | rfl | rfl | rfl | rfl | rfl | rfl | rfl | rfl | rfl | rfl | rfl | rfl | rfl | rfl | rfl | rfl | rfl | rfl | rfl | rfl | rfl | rfl | rfl | rfl | rfl | rfl
  · exact performEnroll_shell _ _ _ _ h
  · exact performLookup_shell _ _ _ _ h
  · exact performVerify_shell _ _ _ _ h
  · exact performOpenOne_shell _ _ _ _ h
  · exact performMultiOpen_shell _ _ _ _ h
  · exact performMove_shell _ _ _ _ h
  · exact performSeal_shell _ _ _ _ h
  · exact performRetire_shell _ _ _ _ h
  · exact performRelabel_shell _ _ _ _ h
  · exact performCheckout_shell _ _ _ _ h
  · exact performRelease_shell _ _ _ _ h
  · exact performMoveGroup_shell _ _ _ _ h
  · exact performListBag_shell _ _ _ _ h
  · exact performListDue_shell _ _ _ _ h
  · exact performListCheckouts_shell _ _ _ _ h
  · exact performHoldCarrier_shell _ _ _ _ h
  · exact performHoldBag_shell _ _ _ _ h
  · exact performHoldLot_shell _ _ _ _ h
  · exact performHoldConsignor_shell _ _ _ _ h
  · exact performUnholdCarrier_shell _ _ _ _ h
  · exact performUnholdBag_shell _ _ _ _ h
  · exact performUnholdLot_shell _ _ _ _ h
  · exact performUnholdConsignor_shell _ _ _ _ h
  · exact performClimate_shell _ _ _ _ h
  · exact performTrip_shell _ _ _ _ h
  · exact performClearTrip_shell _ _ _ _ h
  · exact performBakeStart_shell _ _ _ _ h
  · exact performBakeStop_shell _ _ _ _ h
  · exact performStatus_shell _ _ _ _ h
  · exact performClassSet_shell _ _ _ _ h
  · exact performBandSet_shell _ _ _ _ h
  · exact performWeightSet_shell _ _ _ _ h
  · exact performZoneSet_shell _ _ _ _ h
  · exact performPortSet_shell _ _ _ _ h
  · exact performConsignorSet_shell _ _ _ _ h
  · exact performRouteSet_shell _ _ _ _ h
  · exact performExemptSet_shell _ _ _ _ h
  · exact performTimeSet_shell _ _ _ _ h
  · exact performForceRetire_shell _ _ _ _ h
  · exact performFaultClear_shell _ _ _ _ h
  · exact performReleaseAll_shell _ _ _ _ h
  · exact performRestart_shell _ _ _ _ h
  · exact performFormat_shell _ _ _ _ h

theorem performAny_shell (c : Nat) (p : Part) (x : Context) (q : Part) (h : performAny c p x = some q) :
    q.shell = p.shell := by
  obtain ⟨f, hf, hq⟩ := List.exists_of_findSome?_eq_some h
  exact performances_shell f hf c p x q hq

@[simp] theorem Part.takeRequest_shell (p : Part) (c i : Nat) (q : Queued) :
    (Part.takeRequest p c i q).shell = p.shell := by
  simp only [Part.takeRequest]
  (repeat' split) <;> simp [shell_mk, shell_fold]

/-! ### Machine/PortOps.lean -/

@[simp] theorem Part.takeBytes_shell (p : Part) (i : Nat) (bytes : List Byte) :
    (Part.takeBytes p i bytes).shell = p.shell := by
  simp only [Part.takeBytes]
  (repeat' split) <;> simp [shell_mk, shell_fold]

@[simp] theorem Part.setFramer_shell (p : Part) (i : Nat) (mode : FramerMode) (held : List Byte) :
    (Part.setFramer p i mode held).shell = p.shell := by
  simp only [Part.setFramer]
  (repeat' split) <;> simp [shell_mk, shell_fold]

@[simp] theorem Part.giveLinkFault_shell (p : Part) (i : Nat) (cause : LinkCause) (frame : Option (Nat × Nat)) :
    (Part.giveLinkFault p i cause frame).shell = p.shell := by
  simp only [Part.giveLinkFault]
  (repeat' split) <;> simp [shell_mk, shell_fold]

@[simp] theorem Part.loseSync_shell (p : Part) (i : Nat) (cause : LinkCause) :
    (Part.loseSync p i cause).shell = p.shell := by
  simp only [Part.loseSync]
  (repeat' split) <;> simp [shell_mk, shell_fold]

@[simp] theorem Part.refuseArrival_shell (p : Part) (i code tag : Nat) (st : Status) :
    (Part.refuseArrival p i code tag st).shell = p.shell := by
  simp only [Part.refuseArrival]
  (repeat' split) <;> simp [shell_mk, shell_fold]

@[simp] theorem Part.checkArrival_shell (p : Part) (i code tag : Nat) (body : List Byte) :
    (Part.checkArrival p i code tag body).shell = p.shell := by
  simp only [Part.checkArrival]
  (repeat' split) <;> simp [shell_mk, shell_fold]

@[simp] theorem Part.requestArrives_shell (p : Part) (i code tag : Nat) (body : List Byte) :
    (Part.requestArrives p i code tag body).shell = p.shell := by
  simp only [Part.requestArrives]
  (repeat' split) <;> simp [shell_mk, shell_fold]

@[simp] theorem Part.frameArrives_shell (p : Part) (i kind code tag : Nat) (body rest : List Byte) :
    (Part.frameArrives p i kind code tag body rest).shell = p.shell := by
  simp only [Part.frameArrives]
  (repeat' split) <;> simp [shell_mk, shell_fold]

@[simp] theorem Part.framerDoes_shell (p : Part) (i : Nat) (e : FramerEvent) :
    (Part.framerDoes p i e).shell = p.shell := by
  simp only [Part.framerDoes]
  (repeat' split) <;> simp [shell_mk, shell_fold]

@[simp] theorem Part.framerRow_shell (p : Part) (i : Nat) (bytes : List Byte) (sort : FramerEvent → Bool) :
    (Part.framerRow p i bytes sort).shell = p.shell := by
  simp only [Part.framerRow]
  (repeat' split) <;> simp [shell_mk, shell_fold]

@[simp] theorem Part.queueWaiting_shell (p : Part) (i : Nat) : (Part.queueWaiting p i).shell = p.shell := by
  simp only [Part.queueWaiting]
  (repeat' split) <;> simp [shell_mk, shell_fold]

@[simp] theorem Part.turnDone_shell (p : Part) (i : Nat) : (Part.turnDone p i).shell = p.shell := by
  simp only [Part.turnDone]
  (repeat' split) <;> simp [shell_mk, shell_fold]

/-! ### Machine/Rebuild.lean -/

@[simp] theorem Part.loadSettings_shell (p : Part) : (Part.loadSettings p).shell = p.shell := by
  simp only [Part.loadSettings]
  (repeat' split) <;> simp [shell_mk, shell_fold]

@[simp] theorem Part.loadConfig_shell (p : Part) : (Part.loadConfig p).shell = p.shell := by
  simp only [Part.loadConfig]
  (repeat' split) <;> simp [shell_mk, shell_fold]

@[simp] theorem Part.endLoadedBake_shell (p : Part) (z : Nat) (r : ZoneRecord) :
    (Part.endLoadedBake p z r).shell = p.shell := by
  simp only [Part.endLoadedBake]
  (repeat' split) <;> simp [shell_mk, shell_fold]

@[simp] theorem Part.loadZones_shell (p : Part) : p.loadZones.shell = p.shell := by
  simp [Part.loadZones, foldl_shell, shell_mk, shell_fold]

@[simp] theorem Part.recountBranches_shell (p : Part) : p.recountBranches.shell = p.shell := by
  rw [Part.recountBranches, foldl_shell]
  intro q b
  split
  · rfl
  · rw [foldl_shell]
    intro q b
    dsimp only
    split <;> simp

@[simp] theorem Part.recountRoots_shell (p : Part) : p.recountRoots.shell = p.shell := by
  simp [Part.recountRoots, foldl_shell]

@[simp] theorem Part.judgeRecord_shell (p : Part) (slot : Nat) (r : CarrierRecord) (entries : List Key) :
    (p.judgeRecord slot r entries).shell = p.shell := by
  simp only [Part.judgeRecord]
  (repeat' split) <;> simp [foldl_shell, shell_mk, shell_fold]

@[simp] theorem Part.scanSlot_shell (p : Part) (slot : Nat) (entries : List Key) :
    (Part.scanSlot p slot entries).shell = p.shell := by
  simp only [Part.scanSlot]
  (repeat' split) <;> simp [shell_mk, shell_fold]

@[simp] theorem Part.rebuildBags_shell (p : Part) (live : List Nat) : (p.rebuildBags live).shell = p.shell := by
  simp only [Part.rebuildBags]
  rw [shell_mk, shell_fold, foldl_shell]
  intro q b
  split <;> simp

@[simp] theorem Part.scanDirectory_shell (p : Part) : p.scanDirectory.shell = p.shell := by
  simp [Part.scanDirectory, foldl_shell, shell_mk, shell_fold]

@[simp] theorem Part.reconcileTallies_shell (p : Part) : p.reconcileTallies.shell = p.shell := by
  rw [Part.reconcileTallies, foldl_shell]
  intro q b
  dsimp only
  split <;> simp

@[simp] theorem Part.raiseCapacities_shell (p : Part) : (Part.raiseCapacities p).shell = p.shell := by
  simp only [Part.raiseCapacities]
  (repeat' split) <;> simp [shell_mk, shell_fold]

@[simp] theorem Part.insertNow_shell (p : Part) (n : Nat) : (Part.insertNow p n).shell = p.shell := by
  simp only [Part.insertNow]
  (repeat' split) <;> simp [shell_mk, shell_fold]

@[simp] theorem Part.reformLists_shell (p : Part) : p.reformLists.shell = p.shell := by
  rw [Part.reformLists, foldl_shell]
  intro q b
  split
  · simp [foldl_shell]
  · rfl

@[simp] theorem Part.loadTallies_shell (p : Part) : (Part.loadTallies p).shell = p.shell := by
  simp only [Part.loadTallies]
  (repeat' split) <;> simp [shell_mk, shell_fold]

@[simp] theorem Part.afterScan_shell (p : Part) : (Part.afterScan p).shell = p.shell := by
  simp only [Part.afterScan]
  (repeat' split) <;> simp [shell_mk, shell_fold]

/-! ### Machine/Urgent.lean -/

theorem urgentBake_shell (p q : Part) (h : urgentBake p = some q) : q.shell = p.shell := by
  simp only [urgentBake, Option.map_eq_some_iff] at h
  obtain ⟨a, -, rfl⟩ := h
  simp

theorem urgentProbe_shell (p : Part) : ∀ q, urgentProbe p = some q → q.shell = p.shell := by
  intro q h
  simp only [urgentProbe] at h
  (repeat' split at h) <;> first | (cases h; simp [shell_mk, shell_fold]; done) | (simp at h; done)

@[simp] theorem Part.queueHeld_shell (p : Part) : (Part.queueHeld p).shell = p.shell := by
  simp only [Part.queueHeld]
  (repeat' split) <;> simp [shell_mk, shell_fold]

theorem urgentHeld_shell (p : Part) : ∀ q, urgentHeld p = some q → q.shell = p.shell := by
  intro q h
  simp only [urgentHeld] at h
  (repeat' split at h) <;> first | (cases h; simp [shell_mk, shell_fold]; done) | (simp at h; done)

theorem urgentAnswer_shell (p q : Part) (h : urgentAnswer p = some q) : q.shell = p.shell := by
  simp only [urgentAnswer, Option.map_eq_some_iff] at h
  obtain ⟨a, -, rfl⟩ := h
  simp

theorem urgentTurn_shell (p : Part) : ∀ q, urgentTurn p = some q → q.shell = p.shell := by
  intro q h
  simp only [urgentTurn] at h
  (repeat' split at h) <;> first | (cases h; simp [shell_mk, shell_fold]; done) | (simp at h; done)

theorem urgentRange_shell (p : Part) : ∀ q, urgentRange p = some q → q.shell = p.shell := by
  intro q h
  simp only [urgentRange] at h
  (repeat' split at h) <;> first | (cases h; simp [shell_mk, shell_fold]; done) | (simp at h; done)

theorem urgentFramer_shell (p q : Part) (h : urgentFramer p = some q) : q.shell = p.shell := by
  simp only [urgentFramer, Option.map_eq_some_iff] at h
  obtain ⟨a, -, rfl⟩ := h
  simp

theorem urgentPerform_shell (p q : Part) (h : urgentPerform p = some q) : q.shell = p.shell := by
  simp only [urgentPerform, Option.map_eq_some_iff] at h
  obtain ⟨a, -, rfl⟩ := h
  exact p.performRow_shell a _ fun p x q hq => performAny_shell a p x q hq

/-! ### The operations that change the record memory, the pins or the count of free values -/

@[simp] theorem Part.completeWrite_shell (p : Part) : p.completeWrite.shell = { p.shell with mem := p.completeWrite.mem } := by
  simp only [Part.completeWrite]
  split
  · rfl
  · simp only [Part.endAccess_shell]
    rw [show ∀ q : Part, q.endAccess.mem = q.mem from fun q => congrArg Shell.mem q.endAccess_shell]
    rfl

@[simp] theorem Part.zoneWritten_shell (p : Part) (z : Nat) (r : ZoneRecord) :
    (p.zoneWritten z r).shell = { p.shell with mem := (p.zoneWritten z r).mem } := by
  simp only [Part.zoneWritten, Part.endAccess_shell]
  rw [show ∀ q : Part, q.endAccess.mem = q.mem from fun q => congrArg Shell.mem q.endAccess_shell]
  rfl

@[simp] theorem Part.makeVisible_shell (p : Part) (area : MeterArea) :
    (p.makeVisible area).shell = { p.shell with mem := { p.mem with meters := area } } := by
  simp only [Part.makeVisible, foldl_shell _ Part.receiveOrder_shell, shell_mk, List.length_map]
  rfl

@[simp] theorem Part.advanceDone_shell (p : Part) (area : MeterArea) :
    (p.advanceDone area).shell = { p.shell with mem := { p.mem with meters := area } } := by
  simp only [Part.advanceDone, Part.beginOwed_shell, Part.endAccess_shell, Part.makeVisible_shell]
  rfl

@[simp] theorem Part.gapDone_shell (p : Part) (area : MeterArea) :
    (p.gapDone area).shell = { p.shell with mem := { p.mem with meters := area } } := by
  simp only [Part.gapDone, Part.beginOwed_shell, Part.giveModeChange_shell, shell_mk, shell_fold, Part.endAccess_shell,
    Part.makeVisible_shell]

@[simp] theorem Part.tallyWritten_shell (p : Part) : p.tallyWritten.shell = { p.shell with mem := p.tallyWritten.mem } := by
  have hm : ∀ q : Part, ∀ c s g, (q.completeCommand c s g).mem = q.mem :=
    fun q c s g => congrArg Shell.mem (q.completeCommand_shell c s g)
  have he : ∀ q : Part, q.endAccess.mem = q.mem := fun q => congrArg Shell.mem q.endAccess_shell
  simp only [Part.tallyWritten]
  (repeat' split) <;> (try simp only [Part.completeCommand_shell, Part.endAccess_shell, hm, he]) <;> rfl

@[simp] theorem Part.lineChange_shell (p : Part) (z : Nat) (asserted : Bool) :
    (p.lineChange z asserted).shell = { p.shell with lines := (p.lineChange z asserted).lines } := by
  have he : ∀ q : Part, ∀ a b c, (q.zoneEvent a b c).lines = q.lines :=
    fun q a b c => congrArg Shell.lines (q.zoneEvent_shell a b c)
  simp only [Part.lineChange]
  (repeat' split) <;> (try simp only [Part.zoneEvent_shell, he]) <;> rfl

@[simp] theorem Part.lineChange_lines_length (p : Part) (z : Nat) (asserted : Bool) :
    (p.lineChange z asserted).lines.length = p.lines.length := by
  have he : ∀ q : Part, ∀ a b c, (q.zoneEvent a b c).lines = q.lines :=
    fun q a b c => congrArg Shell.lines (q.zoneEvent_shell a b c)
  simp only [Part.lineChange]
  (repeat' split) <;> simp [he]

theorem Part.landInFlight_shell (p : Part) : p.landInFlight.shell = { p.shell with mem := p.landInFlight.mem } := by
  simp only [Part.landInFlight]
  (repeat' split) <;> rfl

theorem Part.interrupted_shell (p : Part) :
    p.interrupted.shell = { p.shell with mem := p.interrupted.mem, free := p.free + 1 } := by
  have hf : p.landInFlight.free = p.free := congrArg Shell.free p.landInFlight_shell
  have hs := p.landInFlight_shell
  simp only [Part.interrupted]
  split <;> simp only [shell_mk, hf] <;> (simp only [Part.shell, Shell.mk.injEq] at hs ⊢; simp_all)

theorem Part.clear_shell (p : Part) : p.clear.shell = { p.shell with mem := p.mem.cleared 7 } := rfl

theorem Part.recount_shell (p : Part) : p.recount.shell = { p.shell with occupancy := 32, useCounts := 8 } := by
  simp [Part.recount, Part.shell, Config.numClasses, Config.numZones]

theorem Part.scanTallies_shell (p : Part) :
    p.scanTallies.shell = { p.shell with free := p.free + 1, occupancy := 32, useCounts := 8 } := by
  have h : p.loadTallies.recount.raiseCapacities.reformLists.shell = { p.shell with occupancy := 32, useCounts := 8 } := by
    rw [Part.reformLists_shell, Part.raiseCapacities_shell, Part.recount_shell, Part.loadTallies_shell]
  have hf : p.loadTallies.recount.raiseCapacities.reformLists.free = p.free := by
    rw [← shell_free, h]
    rfl
  simp only [Part.scanTallies, Part.afterScan_shell, hf]
  simp only [Part.shell, Shell.mk.injEq] at h ⊢
  simp_all

end Sys2Proof.Machine
end

