-- ==== Sys2Proof/Laws/Memory.lean ====
section
/-! SUPPORT. Every operation that changes the record memory keeps its canonical form, and so does every interruption. -/

namespace Sys2Proof.Machine

theorem wf_iff (m : RecordMemory) : m.wf = true ↔
    Table.wf {} m.roots = true ∧ Table.wf .free m.bags = true ∧ Table.wf .free m.tallies = true
      ∧ Table.wf [1, 2, 3] m.settings.perms = true ∧ Table.rising m.blocks = true ∧ Table.rising m.records = true := by
  simp [RecordMemory.wf, and_assoc]

theorem applySetting_perms {s : Settings} (h : Table.wf [1, 2, 3] s.perms = true) (w : SettingWrite) :
    Table.wf [1, 2, 3] (applySetting s w).perms = true := by
  cases w <;> first
    | exact h
    | exact wf_tset h _ _

/-- A write of the write stream, made whole, keeps the canonical form (R127). -/
theorem write_wf {m : RecordMemory} (h : m.wf = true) (b : WriteBody) : (m.write b).wf = true := by
  rw [wf_iff] at h
  obtain ⟨h1, h2, h3, h4, h5, h6⟩ := h
  cases b <;> simp only [RecordMemory.write, wf_iff]
  · exact ⟨h1, h2, h3, h4, h5, rising_tput h6 _ _⟩
  · exact ⟨h1, wf_tset h2 _ _, h3, h4, h5, h6⟩
  · exact ⟨h1, h2, h3, h4, rising_tput h5 _ _, h6⟩
  · exact ⟨h1, h2, h3, h4, rising_tput h5 _ _, h6⟩
  · exact ⟨h1, h2, h3, h4, rising_tput h5 _ _, h6⟩
  · exact ⟨wf_tset h1 _ _, h2, h3, h4, h5, h6⟩
  · exact ⟨h1, h2, h3, applySetting_perms h4 _, h5, h6⟩

/-- A tally write keeps the canonical form (R58). -/
theorem writeTally_wf {m : RecordMemory} (h : m.wf = true) (n : Nat) (t : Tally) :
    ({ m with tallies := tset m.tallies n t .free } : RecordMemory).wf = true := by
  rw [wf_iff] at h ⊢
  exact ⟨h.1, h.2.1, wf_tset h.2.2.1 _ _, h.2.2.2.1, h.2.2.2.2.1, h.2.2.2.2.2⟩

/-- The meter area has no part in the canonical form. -/
theorem writeMeters_wf {m : RecordMemory} (h : m.wf = true) (a : MeterArea) :
    ({ m with meters := a } : RecordMemory).wf = true := h

/-- CLEARING, after any number of its steps, keeps the canonical form (R209). -/
theorem cleared_wf {m : RecordMemory} (h : m.wf = true) (k : Nat) : (m.cleared k).wf = true := by
  rw [wf_iff] at h
  obtain ⟨h1, h2, h3, h4, h5, h6⟩ := h
  simp only [RecordMemory.cleared, wf_iff]
  refine ⟨?_, ?_, ?_, ?_, h5, h6⟩
  · split
    · rfl
    · exact h1
  · split
    · rfl
    · exact h2
  · split
    · rfl
    · exact h3
  · split
    · rfl
    · exact h4

theorem Part.completeWrite_wf {p : Part} (h : p.mem.wf = true) : p.completeWrite.mem.wf = true := by
  simp only [Part.completeWrite]
  split
  · exact h
  · rw [← shell_mem, Part.endAccess_shell]
    exact write_wf h _

theorem Part.zoneWritten_wf {p : Part} (h : p.mem.wf = true) (z : Nat) (r : ZoneRecord) :
    (p.zoneWritten z r).mem.wf = true := by
  simp only [Part.zoneWritten]
  rw [← shell_mem, Part.endAccess_shell]
  exact h

theorem Part.advanceDone_wf {p : Part} (h : p.mem.wf = true) (area : MeterArea) : (p.advanceDone area).mem.wf = true := by
  rw [← shell_mem, Part.advanceDone_shell]
  exact h

theorem Part.gapDone_wf {p : Part} (h : p.mem.wf = true) (area : MeterArea) : (p.gapDone area).mem.wf = true := by
  rw [← shell_mem, Part.gapDone_shell]
  exact h

theorem Part.tallyWritten_wf {p : Part} (h : p.mem.wf = true) : p.tallyWritten.mem.wf = true := by
  have hw : ∀ rest n t, (({ p with mem.tallies := tset p.mem.tallies n t .free, tally.writes := rest } : Part).endAccess).mem.wf
      = true := by
    intro rest n t
    rw [← shell_mem, Part.endAccess_shell]
    exact writeTally_wf h n t
  have hc : ∀ (q : Part) c s g, q.mem.wf = true → (q.completeCommand c s g).mem.wf = true := by
    intro q c s g hq
    rw [← shell_mem, Part.completeCommand_shell]
    exact hq
  simp only [Part.tallyWritten]
  split
  · exact h
  · rename_i w rest _
    have hq := hw rest w.n w.tally
    generalize ({ p with mem.tallies := tset p.mem.tallies w.n w.tally .free, tally.writes := rest } : Part).endAccess = q
      at hq ⊢
    split
    · exact hq
    · split
      · split
        · exact hc _ _ _ _ hq
        · exact hq
      · exact hq

theorem Part.landInFlight_wf {p : Part} (h : p.mem.wf = true) : p.landInFlight.mem.wf = true := by
  simp only [Part.landInFlight]
  (repeat' split) <;> first
    | exact h
    | exact write_wf h _
    | exact writeTally_wf h _ _

theorem Part.interrupted_wf {p : Part} (h : p.mem.wf = true) : p.interrupted.mem.wf = true := by
  simp only [Part.interrupted]
  split
  · exact cleared_wf (Part.landInFlight_wf h) _
  · exact Part.landInFlight_wf h

theorem Part.restart_wf {p : Part} (h : p.mem.wf = true) (kind : StartKind) (mode : Mode) (minute : Option Nat) :
    (p.restart kind mode minute).mem.wf = true := Part.interrupted_wf h

end Sys2Proof.Machine
end

