-- ==== Sys2Proof/Laws/Acts.lean ====
section
/-! SUPPORT. How a meaning stands on the state: a step, the urgent steps run before a row, a row that waits its turn, a row
that is itself urgent, the performance of a context. -/

namespace Sys2Proof.Machine

/-! ### The step -/

theorem step_cons (s : State) (i : Instr) (rest : List Instr) (h : s.pending = i :: rest) :
    step s = exec i { s with pending := rest } := by
  simp [step, h]

theorem step_nil (s : State) (h : s.pending = []) : step s = .next s := by
  simp [step, h]

/-! ### Urgent steps -/

theorem settled_of_quiet {p : Part} (h : p.quiet = true) : p.settled = p := by
  simp only [Part.quiet, Bool.and_eq_true, Option.isNone_iff_eq_none] at h
  simp only [Part.settled, h.1, if_true]
  show runUrgent (4095 + 1) p = p
  simp only [runUrgent, h.2]

theorem settled_of_not_alive {p : Part} (h : p.alive = false) : p.settled = p := by
  simp [Part.settled, h]

theorem started_of_noStart {p : Part} (h : p.engine.startOwed = none) : p.started = p := by
  simp [Part.started, h]

/-- Where no probe is owed, none is made. -/
theorem makeProbes_of_none {p : Part} (h : p.path.owedProbes = []) : p.makeProbes = p := by
  show Part.probesFrom (4095 + 1) p = p
  simp only [Part.probesFrom, h]

theorem probed_of_nothingOwed {p : Part} (h : p.engine.startOwed = none) (ho : p.path.owedProbes = []) : p.probed = p := by
  rw [Part.probed, started_of_noStart h, makeProbes_of_none ho]

theorem alive_of_quiet {p : Part} (h : p.quiet = true) : p.alive = true := by
  simp only [Part.quiet, Bool.and_eq_true] at h
  exact h.1

/-- What every urgent step keeps is kept by all of them together. -/
theorem settled_induction {P : Part → Prop} (hP : ∀ p q, P p → urgentStep p = some q → P q) {p : Part} (h : P p) :
    P p.settled := by
  have hr : ∀ (n : Nat) (p : Part), P p → P (runUrgent n p) := by
    intro n
    induction n with
    | zero => exact fun p h => h
    | succ n ih =>
      intro p h
      simp only [runUrgent]
      split
      · exact h
      · rename_i q e
        exact ih q (hP p q h e)
  simp only [Part.settled]
  split
  · exact hr _ p h
  · exact h

theorem started_induction {P : Part → Prop} (hP : ∀ p q, P p → urgentStep p = some q → P q) {p : Part} (h : P p) :
    P p.started := by
  simp only [Part.started]
  split
  · exact settled_induction hP h
  · exact h

/-- An urgent step is one of the nine sorts. -/
theorem urgentStep_cases {p q : Part} (h : urgentStep p = some q) :
    urgentStart p = some q ∨ urgentBake p = some q ∨ urgentProbe p = some q ∨ urgentHeld p = some q
      ∨ urgentAnswer p = some q ∨ urgentTurn p = some q ∨ urgentRange p = some q ∨ urgentFramer p = some q
      ∨ urgentPerform p = some q := by
  obtain ⟨f, hf, hq⟩ := List.exists_of_findSome?_eq_some h
  simp only [urgentSteps, List.mem_cons, List.not_mem_nil, or_false] at hf
  rcases hf with rfl | rfl | rfl | rfl | rfl | rfl | rfl | rfl | rfl <;> simp [hq]

/-- An urgent step begins a start or leaves the shell as it is. -/
theorem urgentStep_shell {p q : Part} (h : urgentStep p = some q) :
    q = p.beginRestart ∨ q = p.beginFormat ∨ q.shell = p.shell := by
  rcases urgentStep_cases h with h | h | h | h | h | h | h | h | h
  · simp only [urgentStart] at h
    split at h <;> first
      | (cases h; simp; done)
      | (simp at h; done)
  · exact Or.inr (Or.inr (urgentBake_shell p q h))
  · exact Or.inr (Or.inr (urgentProbe_shell p q h))
  · exact Or.inr (Or.inr (urgentHeld_shell p q h))
  · exact Or.inr (Or.inr (urgentAnswer_shell p q h))
  · exact Or.inr (Or.inr (urgentTurn_shell p q h))
  · exact Or.inr (Or.inr (urgentRange_shell p q h))
  · exact Or.inr (Or.inr (urgentFramer_shell p q h))
  · exact Or.inr (Or.inr (urgentPerform_shell p q h))

theorem urgentStep_fits {p q : Part} (hp : p.fits = true) (h : urgentStep p = some q) : q.fits = true := by
  rcases urgentStep_cases h with h | h | h | h | h | h | h | h | h
  · exact urgentStart_fits p hp q h
  · exact urgentBake_fits p hp q h
  · exact urgentProbe_fits p hp q h
  · exact urgentHeld_fits p hp q h
  · exact urgentAnswer_fits p hp q h
  · exact urgentTurn_fits p hp q h
  · exact urgentRange_fits p hp q h
  · exact urgentFramer_fits p hp q h
  · exact urgentPerform_fits p hp q h

theorem settled_fits {p : Part} (h : p.fits = true) : p.settled.fits = true :=
  settled_induction (P := fun p => p.fits = true) (fun _ _ hp e => urgentStep_fits hp e) h

theorem started_fits {p : Part} (h : p.fits = true) : p.started.fits = true :=
  started_induction (P := fun p => p.fits = true) (fun _ _ hp e => urgentStep_fits hp e) h

theorem probed_fits {p : Part} (h : p.fits = true) : p.probed.fits = true := Part.makeProbes_fits _ (started_fits h)

theorem urgentStep_wf {p q : Part} (hp : p.mem.wf = true) (h : urgentStep p = some q) : q.mem.wf = true := by
  rcases urgentStep_shell h with rfl | rfl | e
  · exact Part.restart_wf hp _ _ _
  · exact Part.restart_wf hp _ _ _
  · rw [← shell_mem, e]
    exact hp

theorem settled_wf {p : Part} (h : p.mem.wf = true) : p.settled.mem.wf = true :=
  settled_induction (P := fun p => p.mem.wf = true) (fun _ _ hp e => urgentStep_wf hp e) h

theorem started_wf {p : Part} (h : p.mem.wf = true) : p.started.mem.wf = true :=
  started_induction (P := fun p => p.mem.wf = true) (fun _ _ hp e => urgentStep_wf hp e) h

theorem probed_wf {p : Part} (h : p.mem.wf = true) : p.probed.mem.wf = true := by
  rw [Part.probed, ← shell_mem, Part.makeProbes_shell]
  exact started_wf h

/-- The sizes are read off the shell. -/
theorem sized_iff (p : Part) : p.sized = true ↔ p.shell.lines.length = 32 ∧ p.shell.zones = 32 ∧ p.shell.timers = 4
    ∧ p.shell.ports = 4 ∧ p.shell.occupancy = 32 ∧ p.shell.useCounts = 8 := by
  simp [Part.sized, Part.shell, and_assoc]

theorem sized_of_shell {p q : Part} (h : q.shell = p.shell) (hp : p.sized = true) : q.sized = true := by
  rw [sized_iff] at *
  rw [h]
  exact hp

theorem interrupted_sized {p : Part} (hp : p.sized = true) : p.interrupted.sized = true := by
  rw [sized_iff] at *
  rw [Part.interrupted_shell]
  exact hp

theorem restart_sized {p : Part} (hp : p.sized = true) (kind : StartKind) (mode : Mode) (minute : Option Nat) :
    (p.restart kind mode minute).sized = true := by
  have h := (sized_iff _).1 (interrupted_sized hp)
  rw [sized_iff]
  simp only [Part.shell] at h ⊢
  simp only [Part.restart, Part.blank, List.length_mapIdx]
  exact ⟨h.1, by decide, by decide, h.2.2.2.1, by decide, by decide⟩

theorem urgentStep_sized {p q : Part} (hp : p.sized = true) (h : urgentStep p = some q) : q.sized = true := by
  rcases urgentStep_shell h with rfl | rfl | e
  · exact restart_sized hp _ _ _
  · exact restart_sized hp _ _ _
  · exact sized_of_shell e hp

theorem settled_sized {p : Part} (h : p.sized = true) : p.settled.sized = true :=
  settled_induction (P := fun p => p.sized = true) (fun _ _ hp e => urgentStep_sized hp e) h

theorem started_sized {p : Part} (h : p.sized = true) : p.started.sized = true :=
  started_induction (P := fun p => p.sized = true) (fun _ _ hp e => urgentStep_sized hp e) h

theorem probed_sized {p : Part} (h : p.sized = true) : p.probed.sized = true :=
  sized_of_shell (Part.makeProbes_shell _) (started_sized h)

/-! ### Rows -/

theorem act_eq (s : State) (f : Part → Part) :
    s.act f = .next { s with part := if s.part.alive then f s.part.settled else s.part } := rfl

theorem now_eq (s : State) (f : Part → Part) :
    s.now f = .next { s with part := if s.part.alive then f s.part.probed else s.part } := rfl

theorem probing_eq (s : State) (f : Part → Part) :
    s.probing f = .next { s with part := if s.part.alive then f s.part.started else s.part } := rfl

theorem act_of_quiet {s : State} (h : s.part.quiet = true) (f : Part → Part) :
    s.act f = .next { s with part := f s.part } := by
  simp [State.act, alive_of_quiet h, settled_of_quiet h]

theorem now_of_noStart {s : State} (ha : s.part.alive = true) (h : s.part.engine.startOwed = none)
    (ho : s.part.path.owedProbes = []) (f : Part → Part) : s.now f = .next { s with part := f s.part } := by
  simp [State.now, ha, probed_of_nothingOwed h ho]

theorem probing_of_noStart {s : State} (ha : s.part.alive = true) (h : s.part.engine.startOwed = none) (f : Part → Part) :
    s.probing f = .next { s with part := f s.part } := by
  simp [State.probing, ha, started_of_noStart h]

theorem noStart_of_quiet {p : Part} (h : p.quiet = true) : ∀ k, p.engine.startOwed = some k → k = .powerOn := by
  intro k hk
  simp only [Part.quiet, Bool.and_eq_true, Option.isNone_iff_eq_none] at h
  have hs : urgentStart p = none := by
    have := List.findSome?_eq_none_iff.1 h.2 urgentStart (by simp [urgentSteps])
    exact this
  cases k <;> simp [urgentStart, hk] at hs ⊢

/-- A quiet part has no urgent step of any sort. -/
theorem quiet_none {p : Part} (h : p.quiet = true) {f : Part → Option Part} (hf : f ∈ urgentSteps) : f p = none := by
  simp only [Part.quiet, Bool.and_eq_true, Option.isNone_iff_eq_none] at h
  exact List.findSome?_eq_none_iff.1 h.2 f hf

/-- A quiet part owes no probe. -/
theorem noProbe_of_quiet {p : Part} (h : p.quiet = true) : p.path.owedProbes = [] := by
  have hp := quiet_none h (f := urgentProbe) (by simp [urgentSteps])
  simp only [urgentProbe] at hp
  split at hp
  · assumption
  · simp at hp

theorem noStart_of_performable {p : Part} {c : Nat} (h : p.performable c = true) : p.engine.startOwed = none := by
  simp only [Part.performable, Bool.and_eq_true, Option.isNone_iff_eq_none] at h
  exact h.1

/-- The performance of a context whose turn it is. -/
theorem performing_eq {s : State} {c : Nat} {x : Context} (h : s.part.Performs c x)
    (row : Nat → Part → Context → Option Part) :
    s.performing c row = .next { s with part := (row c (s.part.begun c x) (s.part.beginPerform c x).2).getD s.part } := by
  have hn := noStart_of_performable h.performable
  simp [State.performing, h.inRange, now_of_noStart h.alive hn h.noProbe, Part.performRow, h.performable, h.context, Part.begun]

/-- The exempt check made afresh changes nothing of a context but its keys and the mark (R108). -/
theorem rechecked_cases (p : Part) (x : Context) :
    p.rechecked x = x ∨ ∃ keys, p.rechecked x = { x with keys := keys, recheck := false } := by
  simp only [Part.rechecked]
  (repeat' split) <;> first
    | exact Or.inl rfl
    | exact Or.inr ⟨_, rfl⟩

/-- A performance keeps the request, the port and the tag of its context. -/
@[simp] theorem beginPerform_request (p : Part) (c : Nat) (x : Context) : (p.beginPerform c x).2.request = x.request := by
  rcases rechecked_cases p x with h | ⟨keys, h⟩ <;> simp only [Part.beginPerform, h] <;> split <;> rfl

@[simp] theorem beginPerform_port (p : Part) (c : Nat) (x : Context) : (p.beginPerform c x).2.port = x.port := by
  rcases rechecked_cases p x with h | ⟨keys, h⟩ <;> simp only [Part.beginPerform, h] <;> split <;> rfl

@[simp] theorem beginPerform_tag (p : Part) (c : Nat) (x : Context) : (p.beginPerform c x).2.tag = x.tag := by
  rcases rechecked_cases p x with h | ⟨keys, h⟩ <;> simp only [Part.beginPerform, h] <;> split <;> rfl

end Sys2Proof.Machine
end

