-- ==== Sys2Proof/Laws/Books.lean ====
section
/-! SUPPORT. What answering a context leaves as it is: the books (`Part.books`), one lemma for each operation that an answer
comes down to. -/

set_option linter.unusedSimpArgs false

namespace Sys2Proof.Machine

theorem books_mk (power resetLine : Bool) (lines : List Bool) (zone : ZoneUnit) (tally : TallyUnit) (path : RecordPath)
    (engine : Engine) (port : PortUnit) (mem : RecordMemory) (free : Nat) :
    (Part.mk power resetLine lines zone tally path engine port mem free).books =
      ⟨power, resetLine, lines, free, mem, zone, tally, path.queue, path.held, path.flush, engine.mode,
        engine.startKind, engine.roots, engine.blockFree, engine.exempt, engine.epoch, engine.bags,
        engine.bagFree, engine.checkouts, engine.faults, engine.unlisted, engine.turn, engine.holdRead,
        engine.range, engine.arrivals, port.routing⟩ := rfl

theorem books_fold (q : Part) :
    (⟨q.power, q.resetLine, q.lines, q.free, q.mem, q.zone, q.tally, q.path.queue, q.path.held, q.path.flush,
      q.engine.mode, q.engine.startKind, q.engine.roots, q.engine.blockFree, q.engine.exempt, q.engine.epoch,
      q.engine.bags, q.engine.bagFree, q.engine.checkouts, q.engine.faults, q.engine.unlisted, q.engine.turn,
      q.engine.holdRead, q.engine.range, q.engine.arrivals, q.port.routing⟩ : Books) = q.books := rfl

theorem foldl_books {β : Type} (f : Part → β → Part) (h : ∀ q b, (f q b).books = q.books) (l : List β) (p : Part) :
    (l.foldl f p).books = p.books := by
  induction l generalizing p with
  | nil => rfl
  | cons b l ih => simp [List.foldl, ih, h]

@[simp] theorem Part.setPort_books (p : Part) (i : Nat) (f : Port → Port) : (Part.setPort p i f).books = p.books := by
  simp only [Part.setPort]
  (repeat' split) <;> simp [books_mk, books_fold]

@[simp] theorem Part.setSlot_books (p : Part) (s : Nat) (st : SlotState) : (Part.setSlot p s st).books = p.books := by
  simp only [Part.setSlot]
  (repeat' split) <;> simp [books_mk, books_fold]

@[simp] theorem Part.setCtx_books (p : Part) (c : Nat) (x : Context) : (Part.setCtx p c x).books = p.books := by
  simp only [Part.setCtx]
  (repeat' split) <;> simp [books_mk, books_fold]

@[simp] theorem Part.dropCtx_books (p : Part) (c : Nat) : (Part.dropCtx p c).books = p.books := by
  simp only [Part.dropCtx]
  (repeat' split) <;> simp [books_mk, books_fold]

@[simp] theorem Part.updCtx_books (p : Part) (c : Nat) (f : Context → Context) :
    (Part.updCtx p c f).books = p.books := by
  simp only [Part.updCtx]
  (repeat' split) <;> simp [books_mk, books_fold]

@[simp] theorem Part.queueAnswer_books (p : Part) (i : Nat) (a : Answer) (ctx : Option Nat) :
    (Part.queueAnswer p i a ctx).books = p.books := by
  simp only [Part.queueAnswer]
  (repeat' split) <;> simp [books_mk, books_fold]

@[simp] theorem Part.composeAnswer_books (p : Part) (i : Nat) (a : Answer) (ctx : Option Nat) :
    (Part.composeAnswer p i a ctx).books = p.books := by
  simp only [Part.composeAnswer]
  (repeat' split) <;> simp [books_mk, books_fold]

@[simp] theorem Part.grant_books (p : Part) (r : Requester) (a : Access) : (Part.grant p r a).books = p.books := by
  simp only [Part.grant]
  (repeat' split) <;> simp [books_mk, books_fold]

@[simp] theorem Part.grantFirst_books (p : Part) (l : List Requester) : (p.grantFirst l).books = p.books := by
  induction l with
  | nil => rfl
  | cons r rest ih =>
    simp only [Part.grantFirst]
    split <;> simp [ih]

@[simp] theorem Part.arbitrate_books (p : Part) : (Part.arbitrate p).books = p.books := by
  simp only [Part.arbitrate]
  (repeat' split) <;> simp [books_mk, books_fold]

@[simp] theorem Part.endAccess_books (p : Part) : (Part.endAccess p).books = p.books := by
  simp only [Part.endAccess]
  (repeat' split) <;> simp [books_mk, books_fold]

@[simp] theorem Part.issueRead_books (p : Part) (client : ReadClient) (t : ReadTarget) :
    (Part.issueRead p client t).books = p.books := by
  simp only [Part.issueRead]
  (repeat' split) <;> simp [books_mk, books_fold]

@[simp] theorem Part.resolveKey_books (p : Part) (c : Nat) (k : Key) (r : Resolution) :
    (Part.resolveKey p c k r).books = p.books := by
  simp only [Part.resolveKey]
  (repeat' split) <;> simp [books_mk, books_fold]

@[simp] theorem Part.readyOn_books (p : Part) (c : Nat) (k : Key) (index slot : Nat) (form : KeyForm) :
    (Part.readyOn p c k index slot form).books = p.books := by
  simp only [Part.readyOn]
  (repeat' split) <;> simp [books_mk, books_fold]

@[simp] theorem Part.returnSlot_books (p : Part) (slot : Nat) : (Part.returnSlot p slot).books = p.books := by
  simp only [Part.returnSlot]
  (repeat' split) <;> simp [books_mk, books_fold]

@[simp] theorem Part.setWalk_books (p : Part) (e : Nat) (w : Walk) : (Part.setWalk p e w).books = p.books := by
  simp only [Part.setWalk]
  (repeat' split) <;> simp [books_mk, books_fold]

@[simp] theorem Part.leaveMissWait_books (p : Part) (c : Nat) : (p.leaveMissWait c).books = p.books := by
  simp only [Part.leaveMissWait]
  (repeat' split) <;> rfl

@[simp] theorem Part.freeWalk_books (p : Part) (e : Nat) (w : Walk) : (Part.freeWalk p e w).books = p.books := by
  simp only [Part.freeWalk]
  (repeat' split) <;> simp [books_mk, books_fold]

@[simp] theorem Part.walkFail_books (p : Part) (e : Nat) (w : Walk) (outcome : Resolution) :
    (Part.walkFail p e w outcome).books = p.books := by
  simp [Part.walkFail, foldl_books, books_mk, books_fold]

@[simp] theorem Part.walkBegin_books (p : Part) (e : Nat) (w : Walk) : (Part.walkBegin p e w).books = p.books := by
  simp only [Part.walkBegin]
  (repeat' split) <;> simp [books_mk, books_fold]

@[simp] theorem Part.walkRestart_books (p : Part) (e : Nat) (w : Walk) (epoch : Nat) :
    (Part.walkRestart p e w epoch).books = p.books := by
  simp only [Part.walkRestart]
  (repeat' split) <;> simp [books_mk, books_fold]

@[simp] theorem Part.miss_books (p : Part) (c : Nat) (k : Key) : (Part.miss p c k).books = p.books := by
  simp only [Part.miss]
  (repeat' split) <;> simp [books_mk, books_fold]

@[simp] theorem Part.probeOnce_books (p : Part) (c : Nat) (k : Key) : (Part.probeOnce p c k).books = p.books := by
  simp only [Part.probeOnce]
  (repeat' split) <;> simp [books_mk, books_fold]

theorem Part.probesFrom_books (n : Nat) : ∀ p : Part, (Part.probesFrom n p).books = p.books := by
  induction n with
  | zero => exact fun p => rfl
  | succ n ih =>
    intro p
    simp only [Part.probesFrom]
    split <;> simp [ih, books_mk, books_fold]

@[simp] theorem Part.makeProbes_books (p : Part) : p.makeProbes.books = p.books := Part.probesFrom_books _ p

@[simp] theorem Part.probe_books (p : Part) (c : Nat) (k : Key) : (p.probe c k).books = p.books := by
  simp [Part.probe]

@[simp] theorem Part.removeEntry_books (p : Part) (index : Nat) : (Part.removeEntry p index).books = p.books := by
  simp [Part.removeEntry, foldl_books, books_mk, books_fold]

@[simp] theorem Part.removeSlotEntry_books (p : Part) (slot : Nat) :
    (Part.removeSlotEntry p slot).books = p.books := by
  simp only [Part.removeSlotEntry]
  (repeat' split) <;> simp [books_mk, books_fold]

@[simp] theorem Part.startKey_books (p : Part) (c : Nat) (q : Request) (k : Key) :
    (Part.startKey p c q k).books = p.books := by
  simp only [Part.startKey]
  (repeat' split) <;> simp [books_mk, books_fold]

@[simp] theorem Part.leaveChained_books (p : Part) (c : Nat) (x : Context) :
    (Part.leaveChained p c x).books = p.books := by
  simp only [Part.leaveChained]
  split <;> simp [foldl_books]

@[simp] theorem Part.openGates_books (p : Part) : (Part.openGates p).books = p.books := by
  rw [Part.openGates, foldl_books]
  intro q b
  split <;> simp

@[simp] theorem Part.dropFaulted_books (p : Part) (slots : List Nat) :
    (Part.dropFaulted p slots).books = p.books := by
  rw [Part.dropFaulted, foldl_books]
  intro q b
  split <;> simp

@[simp] theorem Part.answer_books (p : Part) (c : Nat) (r : Reply) : (Part.answer p c r).books = p.books := by
  simp only [Part.answer]
  (repeat' split) <;> simp [books_mk, books_fold]

@[simp] theorem Part.finish_books (p : Part) (c : Nat) : (Part.finish p c).books = p.books := by
  simp only [Part.finish]
  (repeat' split) <;> simp [books_mk, books_fold]

@[simp] theorem Part.reply_books (p : Part) (c : Nat) (s : Status) (body : Body) :
    (Part.reply p c s body).books = p.books := by
  simp only [Part.reply]
  (repeat' split) <;> simp [books_mk, books_fold]

@[simp] theorem Part.refuse_books (p : Part) (c : Nat) (s : Status) (body : Body) :
    (Part.refuse p c s body).books = p.books := by
  simp only [Part.refuse]
  (repeat' split) <;> simp [books_mk, books_fold]

end Sys2Proof.Machine
end

