-- ==== Sys2Proof/Laws/State.lean ====
section
/-! SUPPORT. One lemma for each field of the part and each update of one unit: a field that the update does not change is as it
was. All hold by rfl. -/

namespace Sys2Proof.Machine

@[simp] theorem Part.setZone_power (p : Part) (z : Nat) (f : Zone → Zone) : (p.setZone z f).power = p.power := rfl
@[simp] theorem Part.setZone_resetLine (p : Part) (z : Nat) (f : Zone → Zone) : (p.setZone z f).resetLine = p.resetLine := rfl
@[simp] theorem Part.setZone_lines (p : Part) (z : Nat) (f : Zone → Zone) : (p.setZone z f).lines = p.lines := rfl
@[simp] theorem Part.setZone_tally (p : Part) (z : Nat) (f : Zone → Zone) : (p.setZone z f).tally = p.tally := rfl
@[simp] theorem Part.setZone_path (p : Part) (z : Nat) (f : Zone → Zone) : (p.setZone z f).path = p.path := rfl
@[simp] theorem Part.setZone_engine (p : Part) (z : Nat) (f : Zone → Zone) : (p.setZone z f).engine = p.engine := rfl
@[simp] theorem Part.setZone_port (p : Part) (z : Nat) (f : Zone → Zone) : (p.setZone z f).port = p.port := rfl
@[simp] theorem Part.setZone_mem (p : Part) (z : Nat) (f : Zone → Zone) : (p.setZone z f).mem = p.mem := rfl
@[simp] theorem Part.setZone_free (p : Part) (z : Nat) (f : Zone → Zone) : (p.setZone z f).free = p.free := rfl

@[simp] theorem Part.setPort_power (p : Part) (i : Nat) (f : Port → Port) : (p.setPort i f).power = p.power := rfl
@[simp] theorem Part.setPort_resetLine (p : Part) (i : Nat) (f : Port → Port) : (p.setPort i f).resetLine = p.resetLine := rfl
@[simp] theorem Part.setPort_lines (p : Part) (i : Nat) (f : Port → Port) : (p.setPort i f).lines = p.lines := rfl
@[simp] theorem Part.setPort_zone (p : Part) (i : Nat) (f : Port → Port) : (p.setPort i f).zone = p.zone := rfl
@[simp] theorem Part.setPort_tally (p : Part) (i : Nat) (f : Port → Port) : (p.setPort i f).tally = p.tally := rfl
@[simp] theorem Part.setPort_path (p : Part) (i : Nat) (f : Port → Port) : (p.setPort i f).path = p.path := rfl
@[simp] theorem Part.setPort_engine (p : Part) (i : Nat) (f : Port → Port) : (p.setPort i f).engine = p.engine := rfl
@[simp] theorem Part.setPort_mem (p : Part) (i : Nat) (f : Port → Port) : (p.setPort i f).mem = p.mem := rfl
@[simp] theorem Part.setPort_free (p : Part) (i : Nat) (f : Port → Port) : (p.setPort i f).free = p.free := rfl

@[simp] theorem Part.setList_power (p : Part) (l : Nat) (d : DueList) : (p.setList l d).power = p.power := rfl
@[simp] theorem Part.setList_resetLine (p : Part) (l : Nat) (d : DueList) : (p.setList l d).resetLine = p.resetLine := rfl
@[simp] theorem Part.setList_lines (p : Part) (l : Nat) (d : DueList) : (p.setList l d).lines = p.lines := rfl
@[simp] theorem Part.setList_zone (p : Part) (l : Nat) (d : DueList) : (p.setList l d).zone = p.zone := rfl
@[simp] theorem Part.setList_path (p : Part) (l : Nat) (d : DueList) : (p.setList l d).path = p.path := rfl
@[simp] theorem Part.setList_engine (p : Part) (l : Nat) (d : DueList) : (p.setList l d).engine = p.engine := rfl
@[simp] theorem Part.setList_port (p : Part) (l : Nat) (d : DueList) : (p.setList l d).port = p.port := rfl
@[simp] theorem Part.setList_mem (p : Part) (l : Nat) (d : DueList) : (p.setList l d).mem = p.mem := rfl
@[simp] theorem Part.setList_free (p : Part) (l : Nat) (d : DueList) : (p.setList l d).free = p.free := rfl

@[simp] theorem Part.setRoot_power (p : Part) (c : Nat) (e : RootEntry) : (p.setRoot c e).power = p.power := rfl
@[simp] theorem Part.setRoot_resetLine (p : Part) (c : Nat) (e : RootEntry) : (p.setRoot c e).resetLine = p.resetLine := rfl
@[simp] theorem Part.setRoot_lines (p : Part) (c : Nat) (e : RootEntry) : (p.setRoot c e).lines = p.lines := rfl
@[simp] theorem Part.setRoot_zone (p : Part) (c : Nat) (e : RootEntry) : (p.setRoot c e).zone = p.zone := rfl
@[simp] theorem Part.setRoot_tally (p : Part) (c : Nat) (e : RootEntry) : (p.setRoot c e).tally = p.tally := rfl
@[simp] theorem Part.setRoot_path (p : Part) (c : Nat) (e : RootEntry) : (p.setRoot c e).path = p.path := rfl
@[simp] theorem Part.setRoot_port (p : Part) (c : Nat) (e : RootEntry) : (p.setRoot c e).port = p.port := rfl
@[simp] theorem Part.setRoot_mem (p : Part) (c : Nat) (e : RootEntry) : (p.setRoot c e).mem = p.mem := rfl
@[simp] theorem Part.setRoot_free (p : Part) (c : Nat) (e : RootEntry) : (p.setRoot c e).free = p.free := rfl

@[simp] theorem Part.setSlot_power (p : Part) (i : Nat) (st : SlotState) : (p.setSlot i st).power = p.power := rfl
@[simp] theorem Part.setSlot_resetLine (p : Part) (i : Nat) (st : SlotState) : (p.setSlot i st).resetLine = p.resetLine := rfl
@[simp] theorem Part.setSlot_lines (p : Part) (i : Nat) (st : SlotState) : (p.setSlot i st).lines = p.lines := rfl
@[simp] theorem Part.setSlot_zone (p : Part) (i : Nat) (st : SlotState) : (p.setSlot i st).zone = p.zone := rfl
@[simp] theorem Part.setSlot_tally (p : Part) (i : Nat) (st : SlotState) : (p.setSlot i st).tally = p.tally := rfl
@[simp] theorem Part.setSlot_path (p : Part) (i : Nat) (st : SlotState) : (p.setSlot i st).path = p.path := rfl
@[simp] theorem Part.setSlot_port (p : Part) (i : Nat) (st : SlotState) : (p.setSlot i st).port = p.port := rfl
@[simp] theorem Part.setSlot_mem (p : Part) (i : Nat) (st : SlotState) : (p.setSlot i st).mem = p.mem := rfl
@[simp] theorem Part.setSlot_free (p : Part) (i : Nat) (st : SlotState) : (p.setSlot i st).free = p.free := rfl

@[simp] theorem Part.setBag_power (p : Part) (b : Nat) (r : BagRecord) : (p.setBag b r).power = p.power := rfl
@[simp] theorem Part.setBag_resetLine (p : Part) (b : Nat) (r : BagRecord) : (p.setBag b r).resetLine = p.resetLine := rfl
@[simp] theorem Part.setBag_lines (p : Part) (b : Nat) (r : BagRecord) : (p.setBag b r).lines = p.lines := rfl
@[simp] theorem Part.setBag_zone (p : Part) (b : Nat) (r : BagRecord) : (p.setBag b r).zone = p.zone := rfl
@[simp] theorem Part.setBag_tally (p : Part) (b : Nat) (r : BagRecord) : (p.setBag b r).tally = p.tally := rfl
@[simp] theorem Part.setBag_path (p : Part) (b : Nat) (r : BagRecord) : (p.setBag b r).path = p.path := rfl
@[simp] theorem Part.setBag_port (p : Part) (b : Nat) (r : BagRecord) : (p.setBag b r).port = p.port := rfl
@[simp] theorem Part.setBag_mem (p : Part) (b : Nat) (r : BagRecord) : (p.setBag b r).mem = p.mem := rfl
@[simp] theorem Part.setBag_free (p : Part) (b : Nat) (r : BagRecord) : (p.setBag b r).free = p.free := rfl

@[simp] theorem Part.setCtx_power (p : Part) (c : Nat) (x : Context) : (p.setCtx c x).power = p.power := rfl
@[simp] theorem Part.setCtx_resetLine (p : Part) (c : Nat) (x : Context) : (p.setCtx c x).resetLine = p.resetLine := rfl
@[simp] theorem Part.setCtx_lines (p : Part) (c : Nat) (x : Context) : (p.setCtx c x).lines = p.lines := rfl
@[simp] theorem Part.setCtx_zone (p : Part) (c : Nat) (x : Context) : (p.setCtx c x).zone = p.zone := rfl
@[simp] theorem Part.setCtx_tally (p : Part) (c : Nat) (x : Context) : (p.setCtx c x).tally = p.tally := rfl
@[simp] theorem Part.setCtx_path (p : Part) (c : Nat) (x : Context) : (p.setCtx c x).path = p.path := rfl
@[simp] theorem Part.setCtx_port (p : Part) (c : Nat) (x : Context) : (p.setCtx c x).port = p.port := rfl
@[simp] theorem Part.setCtx_mem (p : Part) (c : Nat) (x : Context) : (p.setCtx c x).mem = p.mem := rfl
@[simp] theorem Part.setCtx_free (p : Part) (c : Nat) (x : Context) : (p.setCtx c x).free = p.free := rfl

@[simp] theorem Part.dropCtx_power (p : Part) (c : Nat) : (p.dropCtx c).power = p.power := rfl
@[simp] theorem Part.dropCtx_resetLine (p : Part) (c : Nat) : (p.dropCtx c).resetLine = p.resetLine := rfl
@[simp] theorem Part.dropCtx_lines (p : Part) (c : Nat) : (p.dropCtx c).lines = p.lines := rfl
@[simp] theorem Part.dropCtx_zone (p : Part) (c : Nat) : (p.dropCtx c).zone = p.zone := rfl
@[simp] theorem Part.dropCtx_tally (p : Part) (c : Nat) : (p.dropCtx c).tally = p.tally := rfl
@[simp] theorem Part.dropCtx_path (p : Part) (c : Nat) : (p.dropCtx c).path = p.path := rfl
@[simp] theorem Part.dropCtx_port (p : Part) (c : Nat) : (p.dropCtx c).port = p.port := rfl
@[simp] theorem Part.dropCtx_mem (p : Part) (c : Nat) : (p.dropCtx c).mem = p.mem := rfl
@[simp] theorem Part.dropCtx_free (p : Part) (c : Nat) : (p.dropCtx c).free = p.free := rfl

@[simp] theorem Part.setWalk_power (p : Part) (e : Nat) (w : Walk) : (p.setWalk e w).power = p.power := rfl
@[simp] theorem Part.setWalk_resetLine (p : Part) (e : Nat) (w : Walk) : (p.setWalk e w).resetLine = p.resetLine := rfl
@[simp] theorem Part.setWalk_lines (p : Part) (e : Nat) (w : Walk) : (p.setWalk e w).lines = p.lines := rfl
@[simp] theorem Part.setWalk_zone (p : Part) (e : Nat) (w : Walk) : (p.setWalk e w).zone = p.zone := rfl
@[simp] theorem Part.setWalk_tally (p : Part) (e : Nat) (w : Walk) : (p.setWalk e w).tally = p.tally := rfl
@[simp] theorem Part.setWalk_engine (p : Part) (e : Nat) (w : Walk) : (p.setWalk e w).engine = p.engine := rfl
@[simp] theorem Part.setWalk_port (p : Part) (e : Nat) (w : Walk) : (p.setWalk e w).port = p.port := rfl
@[simp] theorem Part.setWalk_mem (p : Part) (e : Nat) (w : Walk) : (p.setWalk e w).mem = p.mem := rfl
@[simp] theorem Part.setWalk_free (p : Part) (e : Nat) (w : Walk) : (p.setWalk e w).free = p.free := rfl

@[simp] theorem Part.setTimer_power (p : Part) (t : Nat) (v : Option BakeTimer) : (p.setTimer t v).power = p.power := rfl
@[simp] theorem Part.setTimer_resetLine (p : Part) (t : Nat) (v : Option BakeTimer) : (p.setTimer t v).resetLine = p.resetLine := rfl
@[simp] theorem Part.setTimer_lines (p : Part) (t : Nat) (v : Option BakeTimer) : (p.setTimer t v).lines = p.lines := rfl
@[simp] theorem Part.setTimer_tally (p : Part) (t : Nat) (v : Option BakeTimer) : (p.setTimer t v).tally = p.tally := rfl
@[simp] theorem Part.setTimer_path (p : Part) (t : Nat) (v : Option BakeTimer) : (p.setTimer t v).path = p.path := rfl
@[simp] theorem Part.setTimer_engine (p : Part) (t : Nat) (v : Option BakeTimer) : (p.setTimer t v).engine = p.engine := rfl
@[simp] theorem Part.setTimer_port (p : Part) (t : Nat) (v : Option BakeTimer) : (p.setTimer t v).port = p.port := rfl
@[simp] theorem Part.setTimer_mem (p : Part) (t : Nat) (v : Option BakeTimer) : (p.setTimer t v).mem = p.mem := rfl
@[simp] theorem Part.setTimer_free (p : Part) (t : Nat) (v : Option BakeTimer) : (p.setTimer t v).free = p.free := rfl

@[simp] theorem Part.addOccupancy_power (p : Part) (z n : Nat) : (p.addOccupancy z n).power = p.power := rfl
@[simp] theorem Part.addOccupancy_resetLine (p : Part) (z n : Nat) : (p.addOccupancy z n).resetLine = p.resetLine := rfl
@[simp] theorem Part.addOccupancy_lines (p : Part) (z n : Nat) : (p.addOccupancy z n).lines = p.lines := rfl
@[simp] theorem Part.addOccupancy_zone (p : Part) (z n : Nat) : (p.addOccupancy z n).zone = p.zone := rfl
@[simp] theorem Part.addOccupancy_path (p : Part) (z n : Nat) : (p.addOccupancy z n).path = p.path := rfl
@[simp] theorem Part.addOccupancy_engine (p : Part) (z n : Nat) : (p.addOccupancy z n).engine = p.engine := rfl
@[simp] theorem Part.addOccupancy_port (p : Part) (z n : Nat) : (p.addOccupancy z n).port = p.port := rfl
@[simp] theorem Part.addOccupancy_mem (p : Part) (z n : Nat) : (p.addOccupancy z n).mem = p.mem := rfl
@[simp] theorem Part.addOccupancy_free (p : Part) (z n : Nat) : (p.addOccupancy z n).free = p.free := rfl

@[simp] theorem Part.subOccupancy_power (p : Part) (z n : Nat) : (p.subOccupancy z n).power = p.power := rfl
@[simp] theorem Part.subOccupancy_resetLine (p : Part) (z n : Nat) : (p.subOccupancy z n).resetLine = p.resetLine := rfl
@[simp] theorem Part.subOccupancy_lines (p : Part) (z n : Nat) : (p.subOccupancy z n).lines = p.lines := rfl
@[simp] theorem Part.subOccupancy_zone (p : Part) (z n : Nat) : (p.subOccupancy z n).zone = p.zone := rfl
@[simp] theorem Part.subOccupancy_path (p : Part) (z n : Nat) : (p.subOccupancy z n).path = p.path := rfl
@[simp] theorem Part.subOccupancy_engine (p : Part) (z n : Nat) : (p.subOccupancy z n).engine = p.engine := rfl
@[simp] theorem Part.subOccupancy_port (p : Part) (z n : Nat) : (p.subOccupancy z n).port = p.port := rfl
@[simp] theorem Part.subOccupancy_mem (p : Part) (z n : Nat) : (p.subOccupancy z n).mem = p.mem := rfl
@[simp] theorem Part.subOccupancy_free (p : Part) (z n : Nat) : (p.subOccupancy z n).free = p.free := rfl

@[simp] theorem Part.addUse_power (p : Part) (c : Nat) : (p.addUse c).power = p.power := rfl
@[simp] theorem Part.addUse_resetLine (p : Part) (c : Nat) : (p.addUse c).resetLine = p.resetLine := rfl
@[simp] theorem Part.addUse_lines (p : Part) (c : Nat) : (p.addUse c).lines = p.lines := rfl
@[simp] theorem Part.addUse_zone (p : Part) (c : Nat) : (p.addUse c).zone = p.zone := rfl
@[simp] theorem Part.addUse_path (p : Part) (c : Nat) : (p.addUse c).path = p.path := rfl
@[simp] theorem Part.addUse_engine (p : Part) (c : Nat) : (p.addUse c).engine = p.engine := rfl
@[simp] theorem Part.addUse_port (p : Part) (c : Nat) : (p.addUse c).port = p.port := rfl
@[simp] theorem Part.addUse_mem (p : Part) (c : Nat) : (p.addUse c).mem = p.mem := rfl
@[simp] theorem Part.addUse_free (p : Part) (c : Nat) : (p.addUse c).free = p.free := rfl

@[simp] theorem Part.subUse_power (p : Part) (c : Nat) : (p.subUse c).power = p.power := rfl
@[simp] theorem Part.subUse_resetLine (p : Part) (c : Nat) : (p.subUse c).resetLine = p.resetLine := rfl
@[simp] theorem Part.subUse_lines (p : Part) (c : Nat) : (p.subUse c).lines = p.lines := rfl
@[simp] theorem Part.subUse_zone (p : Part) (c : Nat) : (p.subUse c).zone = p.zone := rfl
@[simp] theorem Part.subUse_path (p : Part) (c : Nat) : (p.subUse c).path = p.path := rfl
@[simp] theorem Part.subUse_engine (p : Part) (c : Nat) : (p.subUse c).engine = p.engine := rfl
@[simp] theorem Part.subUse_port (p : Part) (c : Nat) : (p.subUse c).port = p.port := rfl
@[simp] theorem Part.subUse_mem (p : Part) (c : Nat) : (p.subUse c).mem = p.mem := rfl
@[simp] theorem Part.subUse_free (p : Part) (c : Nat) : (p.subUse c).free = p.free := rfl

@[simp] theorem Part.setCmd_power (p : Part) (id : Nat) (f : TallyCmd → TallyCmd) : (p.setCmd id f).power = p.power := rfl
@[simp] theorem Part.setCmd_resetLine (p : Part) (id : Nat) (f : TallyCmd → TallyCmd) : (p.setCmd id f).resetLine = p.resetLine := rfl
@[simp] theorem Part.setCmd_lines (p : Part) (id : Nat) (f : TallyCmd → TallyCmd) : (p.setCmd id f).lines = p.lines := rfl
@[simp] theorem Part.setCmd_zone (p : Part) (id : Nat) (f : TallyCmd → TallyCmd) : (p.setCmd id f).zone = p.zone := rfl
@[simp] theorem Part.setCmd_path (p : Part) (id : Nat) (f : TallyCmd → TallyCmd) : (p.setCmd id f).path = p.path := rfl
@[simp] theorem Part.setCmd_engine (p : Part) (id : Nat) (f : TallyCmd → TallyCmd) : (p.setCmd id f).engine = p.engine := rfl
@[simp] theorem Part.setCmd_port (p : Part) (id : Nat) (f : TallyCmd → TallyCmd) : (p.setCmd id f).port = p.port := rfl
@[simp] theorem Part.setCmd_mem (p : Part) (id : Nat) (f : TallyCmd → TallyCmd) : (p.setCmd id f).mem = p.mem := rfl
@[simp] theorem Part.setCmd_free (p : Part) (id : Nat) (f : TallyCmd → TallyCmd) : (p.setCmd id f).free = p.free := rfl

@[simp] theorem Part.setBakeWalk_power (p : Part) (b : BakeWalk) : (p.setBakeWalk b).power = p.power := rfl
@[simp] theorem Part.setBakeWalk_resetLine (p : Part) (b : BakeWalk) : (p.setBakeWalk b).resetLine = p.resetLine := rfl
@[simp] theorem Part.setBakeWalk_lines (p : Part) (b : BakeWalk) : (p.setBakeWalk b).lines = p.lines := rfl
@[simp] theorem Part.setBakeWalk_zone (p : Part) (b : BakeWalk) : (p.setBakeWalk b).zone = p.zone := rfl
@[simp] theorem Part.setBakeWalk_path (p : Part) (b : BakeWalk) : (p.setBakeWalk b).path = p.path := rfl
@[simp] theorem Part.setBakeWalk_engine (p : Part) (b : BakeWalk) : (p.setBakeWalk b).engine = p.engine := rfl
@[simp] theorem Part.setBakeWalk_port (p : Part) (b : BakeWalk) : (p.setBakeWalk b).port = p.port := rfl
@[simp] theorem Part.setBakeWalk_mem (p : Part) (b : BakeWalk) : (p.setBakeWalk b).mem = p.mem := rfl
@[simp] theorem Part.setBakeWalk_free (p : Part) (b : BakeWalk) : (p.setBakeWalk b).free = p.free := rfl

@[simp] theorem Part.askTurn_power (p : Part) (o : UpdateOwner) : (p.askTurn o).power = p.power := rfl
@[simp] theorem Part.askTurn_resetLine (p : Part) (o : UpdateOwner) : (p.askTurn o).resetLine = p.resetLine := rfl
@[simp] theorem Part.askTurn_lines (p : Part) (o : UpdateOwner) : (p.askTurn o).lines = p.lines := rfl
@[simp] theorem Part.askTurn_zone (p : Part) (o : UpdateOwner) : (p.askTurn o).zone = p.zone := rfl
@[simp] theorem Part.askTurn_tally (p : Part) (o : UpdateOwner) : (p.askTurn o).tally = p.tally := rfl
@[simp] theorem Part.askTurn_path (p : Part) (o : UpdateOwner) : (p.askTurn o).path = p.path := rfl
@[simp] theorem Part.askTurn_port (p : Part) (o : UpdateOwner) : (p.askTurn o).port = p.port := rfl
@[simp] theorem Part.askTurn_mem (p : Part) (o : UpdateOwner) : (p.askTurn o).mem = p.mem := rfl
@[simp] theorem Part.askTurn_free (p : Part) (o : UpdateOwner) : (p.askTurn o).free = p.free := rfl

@[simp] theorem Part.setZone_zone_wallMinute (p : Part) (z : Nat) (f : Zone → Zone) : (p.setZone z f).zone.wallMinute = p.zone.wallMinute := rfl
@[simp] theorem Part.setZone_zone_timeBase (p : Part) (z : Nat) (f : Zone → Zone) : (p.setZone z f).zone.timeBase = p.zone.timeBase := rfl
@[simp] theorem Part.setZone_zone_owed (p : Part) (z : Nat) (f : Zone → Zone) : (p.setZone z f).zone.owed = p.zone.owed := rfl
@[simp] theorem Part.setZone_zone_lastAdvance (p : Part) (z : Nat) (f : Zone → Zone) : (p.setZone z f).zone.lastAdvance = p.zone.lastAdvance := rfl
@[simp] theorem Part.setZone_zone_classes (p : Part) (z : Nat) (f : Zone → Zone) : (p.setZone z f).zone.classes = p.zone.classes := rfl
@[simp] theorem Part.setZone_zone_bands (p : Part) (z : Nat) (f : Zone → Zone) : (p.setZone z f).zone.bands = p.zone.bands := rfl
@[simp] theorem Part.setZone_zone_pendBands (p : Part) (z : Nat) (f : Zone → Zone) : (p.setZone z f).zone.pendBands = p.zone.pendBands := rfl
@[simp] theorem Part.setZone_zone_weights (p : Part) (z : Nat) (f : Zone → Zone) : (p.setZone z f).zone.weights = p.zone.weights := rfl
@[simp] theorem Part.setZone_zone_pendWeights (p : Part) (z : Nat) (f : Zone → Zone) : (p.setZone z f).zone.pendWeights = p.zone.pendWeights := rfl
@[simp] theorem Part.setZone_zone_timers (p : Part) (z : Nat) (f : Zone → Zone) : (p.setZone z f).zone.timers = p.zone.timers := rfl
@[simp] theorem Part.setZone_zone_linesTaken (p : Part) (z : Nat) (f : Zone → Zone) : (p.setZone z f).zone.linesTaken = p.zone.linesTaken := rfl
@[simp] theorem Part.setZone_zone_advance (p : Part) (z : Nat) (f : Zone → Zone) : (p.setZone z f).zone.advance = p.zone.advance := rfl
@[simp] theorem Part.setZone_zone_orders (p : Part) (z : Nat) (f : Zone → Zone) : (p.setZone z f).zone.orders = p.zone.orders := rfl
@[simp] theorem Part.setZone_zone_writes (p : Part) (z : Nat) (f : Zone → Zone) : (p.setZone z f).zone.writes = p.zone.writes := rfl
@[simp] theorem Part.setZone_zone_reports (p : Part) (z : Nat) (f : Zone → Zone) : (p.setZone z f).zone.reports = p.zone.reports := rfl

@[simp] theorem Part.setTimer_zone_wallMinute (p : Part) (t : Nat) (v : Option BakeTimer) : (p.setTimer t v).zone.wallMinute = p.zone.wallMinute := rfl
@[simp] theorem Part.setTimer_zone_timeBase (p : Part) (t : Nat) (v : Option BakeTimer) : (p.setTimer t v).zone.timeBase = p.zone.timeBase := rfl
@[simp] theorem Part.setTimer_zone_owed (p : Part) (t : Nat) (v : Option BakeTimer) : (p.setTimer t v).zone.owed = p.zone.owed := rfl
@[simp] theorem Part.setTimer_zone_lastAdvance (p : Part) (t : Nat) (v : Option BakeTimer) : (p.setTimer t v).zone.lastAdvance = p.zone.lastAdvance := rfl
@[simp] theorem Part.setTimer_zone_classes (p : Part) (t : Nat) (v : Option BakeTimer) : (p.setTimer t v).zone.classes = p.zone.classes := rfl
@[simp] theorem Part.setTimer_zone_bands (p : Part) (t : Nat) (v : Option BakeTimer) : (p.setTimer t v).zone.bands = p.zone.bands := rfl
@[simp] theorem Part.setTimer_zone_pendBands (p : Part) (t : Nat) (v : Option BakeTimer) : (p.setTimer t v).zone.pendBands = p.zone.pendBands := rfl
@[simp] theorem Part.setTimer_zone_weights (p : Part) (t : Nat) (v : Option BakeTimer) : (p.setTimer t v).zone.weights = p.zone.weights := rfl
@[simp] theorem Part.setTimer_zone_pendWeights (p : Part) (t : Nat) (v : Option BakeTimer) : (p.setTimer t v).zone.pendWeights = p.zone.pendWeights := rfl
@[simp] theorem Part.setTimer_zone_zones (p : Part) (t : Nat) (v : Option BakeTimer) : (p.setTimer t v).zone.zones = p.zone.zones := rfl
@[simp] theorem Part.setTimer_zone_linesTaken (p : Part) (t : Nat) (v : Option BakeTimer) : (p.setTimer t v).zone.linesTaken = p.zone.linesTaken := rfl
@[simp] theorem Part.setTimer_zone_advance (p : Part) (t : Nat) (v : Option BakeTimer) : (p.setTimer t v).zone.advance = p.zone.advance := rfl
@[simp] theorem Part.setTimer_zone_orders (p : Part) (t : Nat) (v : Option BakeTimer) : (p.setTimer t v).zone.orders = p.zone.orders := rfl
@[simp] theorem Part.setTimer_zone_writes (p : Part) (t : Nat) (v : Option BakeTimer) : (p.setTimer t v).zone.writes = p.zone.writes := rfl
@[simp] theorem Part.setTimer_zone_reports (p : Part) (t : Nat) (v : Option BakeTimer) : (p.setTimer t v).zone.reports = p.zone.reports := rfl

@[simp] theorem Part.setList_tally_table (p : Part) (l : Nat) (d : DueList) : (p.setList l d).tally.table = p.tally.table := rfl
@[simp] theorem Part.setList_tally_occupancy (p : Part) (l : Nat) (d : DueList) : (p.setList l d).tally.occupancy = p.tally.occupancy := rfl
@[simp] theorem Part.setList_tally_useCounts (p : Part) (l : Nat) (d : DueList) : (p.setList l d).tally.useCounts = p.tally.useCounts := rfl
@[simp] theorem Part.setList_tally_armSeq (p : Part) (l : Nat) (d : DueList) : (p.setList l d).tally.armSeq = p.tally.armSeq := rfl
@[simp] theorem Part.setList_tally_queue (p : Part) (l : Nat) (d : DueList) : (p.setList l d).tally.queue = p.tally.queue := rfl
@[simp] theorem Part.setList_tally_nextCmd (p : Part) (l : Nat) (d : DueList) : (p.setList l d).tally.nextCmd = p.tally.nextCmd := rfl
@[simp] theorem Part.setList_tally_marks (p : Part) (l : Nat) (d : DueList) : (p.setList l d).tally.marks = p.tally.marks := rfl
@[simp] theorem Part.setList_tally_lastList (p : Part) (l : Nat) (d : DueList) : (p.setList l d).tally.lastList = p.tally.lastList := rfl
@[simp] theorem Part.setList_tally_lastSource (p : Part) (l : Nat) (d : DueList) : (p.setList l d).tally.lastSource = p.tally.lastSource := rfl
@[simp] theorem Part.setList_tally_writes (p : Part) (l : Nat) (d : DueList) : (p.setList l d).tally.writes = p.tally.writes := rfl
@[simp] theorem Part.setList_tally_bakeWalks (p : Part) (l : Nat) (d : DueList) : (p.setList l d).tally.bakeWalks = p.tally.bakeWalks := rfl
@[simp] theorem Part.setList_tally_orphans (p : Part) (l : Nat) (d : DueList) : (p.setList l d).tally.orphans = p.tally.orphans := rfl

@[simp] theorem Part.setPort_port_routing (p : Part) (i : Nat) (f : Port → Port) : (p.setPort i f).port.routing = p.port.routing := rfl

@[simp] theorem Part.setRoot_engine_mode (p : Part) (c : Nat) (e : RootEntry) : (p.setRoot c e).engine.mode = p.engine.mode := rfl
@[simp] theorem Part.setRoot_engine_startKind (p : Part) (c : Nat) (e : RootEntry) : (p.setRoot c e).engine.startKind = p.engine.startKind := rfl
@[simp] theorem Part.setRoot_engine_startOwed (p : Part) (c : Nat) (e : RootEntry) : (p.setRoot c e).engine.startOwed = p.engine.startOwed := rfl
@[simp] theorem Part.setRoot_engine_blockFree (p : Part) (c : Nat) (e : RootEntry) : (p.setRoot c e).engine.blockFree = p.engine.blockFree := rfl
@[simp] theorem Part.setRoot_engine_slots (p : Part) (c : Nat) (e : RootEntry) : (p.setRoot c e).engine.slots = p.engine.slots := rfl
@[simp] theorem Part.setRoot_engine_slotFree (p : Part) (c : Nat) (e : RootEntry) : (p.setRoot c e).engine.slotFree = p.engine.slotFree := rfl
@[simp] theorem Part.setRoot_engine_retired (p : Part) (c : Nat) (e : RootEntry) : (p.setRoot c e).engine.retired = p.engine.retired := rfl
@[simp] theorem Part.setRoot_engine_exempt (p : Part) (c : Nat) (e : RootEntry) : (p.setRoot c e).engine.exempt = p.engine.exempt := rfl
@[simp] theorem Part.setRoot_engine_epoch (p : Part) (c : Nat) (e : RootEntry) : (p.setRoot c e).engine.epoch = p.engine.epoch := rfl
@[simp] theorem Part.setRoot_engine_bags (p : Part) (c : Nat) (e : RootEntry) : (p.setRoot c e).engine.bags = p.engine.bags := rfl
@[simp] theorem Part.setRoot_engine_bagFree (p : Part) (c : Nat) (e : RootEntry) : (p.setRoot c e).engine.bagFree = p.engine.bagFree := rfl
@[simp] theorem Part.setRoot_engine_checkouts (p : Part) (c : Nat) (e : RootEntry) : (p.setRoot c e).engine.checkouts = p.engine.checkouts := rfl
@[simp] theorem Part.setRoot_engine_faults (p : Part) (c : Nat) (e : RootEntry) : (p.setRoot c e).engine.faults = p.engine.faults := rfl
@[simp] theorem Part.setRoot_engine_unlisted (p : Part) (c : Nat) (e : RootEntry) : (p.setRoot c e).engine.unlisted = p.engine.unlisted := rfl
@[simp] theorem Part.setRoot_engine_contexts (p : Part) (c : Nat) (e : RootEntry) : (p.setRoot c e).engine.contexts = p.engine.contexts := rfl
@[simp] theorem Part.setRoot_engine_turn (p : Part) (c : Nat) (e : RootEntry) : (p.setRoot c e).engine.turn = p.engine.turn := rfl
@[simp] theorem Part.setRoot_engine_holdRead (p : Part) (c : Nat) (e : RootEntry) : (p.setRoot c e).engine.holdRead = p.engine.holdRead := rfl
@[simp] theorem Part.setRoot_engine_range (p : Part) (c : Nat) (e : RootEntry) : (p.setRoot c e).engine.range = p.engine.range := rfl
@[simp] theorem Part.setRoot_engine_releaseAll (p : Part) (c : Nat) (e : RootEntry) : (p.setRoot c e).engine.releaseAll = p.engine.releaseAll := rfl
@[simp] theorem Part.setRoot_engine_arrivals (p : Part) (c : Nat) (e : RootEntry) : (p.setRoot c e).engine.arrivals = p.engine.arrivals := rfl
@[simp] theorem Part.setRoot_engine_performs (p : Part) (c : Nat) (e : RootEntry) : (p.setRoot c e).engine.performs = p.engine.performs := rfl
@[simp] theorem Part.setRoot_engine_readies (p : Part) (c : Nat) (e : RootEntry) : (p.setRoot c e).engine.readies = p.engine.readies := rfl

@[simp] theorem Part.setBag_engine_mode (p : Part) (b : Nat) (r : BagRecord) : (p.setBag b r).engine.mode = p.engine.mode := rfl
@[simp] theorem Part.setBag_engine_startKind (p : Part) (b : Nat) (r : BagRecord) : (p.setBag b r).engine.startKind = p.engine.startKind := rfl
@[simp] theorem Part.setBag_engine_startOwed (p : Part) (b : Nat) (r : BagRecord) : (p.setBag b r).engine.startOwed = p.engine.startOwed := rfl
@[simp] theorem Part.setBag_engine_roots (p : Part) (b : Nat) (r : BagRecord) : (p.setBag b r).engine.roots = p.engine.roots := rfl
@[simp] theorem Part.setBag_engine_blockFree (p : Part) (b : Nat) (r : BagRecord) : (p.setBag b r).engine.blockFree = p.engine.blockFree := rfl
@[simp] theorem Part.setBag_engine_slots (p : Part) (b : Nat) (r : BagRecord) : (p.setBag b r).engine.slots = p.engine.slots := rfl
@[simp] theorem Part.setBag_engine_slotFree (p : Part) (b : Nat) (r : BagRecord) : (p.setBag b r).engine.slotFree = p.engine.slotFree := rfl
@[simp] theorem Part.setBag_engine_retired (p : Part) (b : Nat) (r : BagRecord) : (p.setBag b r).engine.retired = p.engine.retired := rfl
@[simp] theorem Part.setBag_engine_exempt (p : Part) (b : Nat) (r : BagRecord) : (p.setBag b r).engine.exempt = p.engine.exempt := rfl
@[simp] theorem Part.setBag_engine_epoch (p : Part) (b : Nat) (r : BagRecord) : (p.setBag b r).engine.epoch = p.engine.epoch := rfl
@[simp] theorem Part.setBag_engine_bagFree (p : Part) (b : Nat) (r : BagRecord) : (p.setBag b r).engine.bagFree = p.engine.bagFree := rfl
@[simp] theorem Part.setBag_engine_checkouts (p : Part) (b : Nat) (r : BagRecord) : (p.setBag b r).engine.checkouts = p.engine.checkouts := rfl
@[simp] theorem Part.setBag_engine_faults (p : Part) (b : Nat) (r : BagRecord) : (p.setBag b r).engine.faults = p.engine.faults := rfl
@[simp] theorem Part.setBag_engine_unlisted (p : Part) (b : Nat) (r : BagRecord) : (p.setBag b r).engine.unlisted = p.engine.unlisted := rfl
@[simp] theorem Part.setBag_engine_contexts (p : Part) (b : Nat) (r : BagRecord) : (p.setBag b r).engine.contexts = p.engine.contexts := rfl
@[simp] theorem Part.setBag_engine_turn (p : Part) (b : Nat) (r : BagRecord) : (p.setBag b r).engine.turn = p.engine.turn := rfl
@[simp] theorem Part.setBag_engine_holdRead (p : Part) (b : Nat) (r : BagRecord) : (p.setBag b r).engine.holdRead = p.engine.holdRead := rfl
@[simp] theorem Part.setBag_engine_range (p : Part) (b : Nat) (r : BagRecord) : (p.setBag b r).engine.range = p.engine.range := rfl
@[simp] theorem Part.setBag_engine_releaseAll (p : Part) (b : Nat) (r : BagRecord) : (p.setBag b r).engine.releaseAll = p.engine.releaseAll := rfl
@[simp] theorem Part.setBag_engine_arrivals (p : Part) (b : Nat) (r : BagRecord) : (p.setBag b r).engine.arrivals = p.engine.arrivals := rfl
@[simp] theorem Part.setBag_engine_performs (p : Part) (b : Nat) (r : BagRecord) : (p.setBag b r).engine.performs = p.engine.performs := rfl
@[simp] theorem Part.setBag_engine_readies (p : Part) (b : Nat) (r : BagRecord) : (p.setBag b r).engine.readies = p.engine.readies := rfl

@[simp] theorem Part.setSlot_engine_mode (p : Part) (i : Nat) (st : SlotState) : (p.setSlot i st).engine.mode = p.engine.mode := rfl
@[simp] theorem Part.setSlot_engine_startKind (p : Part) (i : Nat) (st : SlotState) : (p.setSlot i st).engine.startKind = p.engine.startKind := rfl
@[simp] theorem Part.setSlot_engine_startOwed (p : Part) (i : Nat) (st : SlotState) : (p.setSlot i st).engine.startOwed = p.engine.startOwed := rfl
@[simp] theorem Part.setSlot_engine_roots (p : Part) (i : Nat) (st : SlotState) : (p.setSlot i st).engine.roots = p.engine.roots := rfl
@[simp] theorem Part.setSlot_engine_blockFree (p : Part) (i : Nat) (st : SlotState) : (p.setSlot i st).engine.blockFree = p.engine.blockFree := rfl
@[simp] theorem Part.setSlot_engine_slotFree (p : Part) (i : Nat) (st : SlotState) : (p.setSlot i st).engine.slotFree = p.engine.slotFree := rfl
@[simp] theorem Part.setSlot_engine_retired (p : Part) (i : Nat) (st : SlotState) : (p.setSlot i st).engine.retired = p.engine.retired := rfl
@[simp] theorem Part.setSlot_engine_exempt (p : Part) (i : Nat) (st : SlotState) : (p.setSlot i st).engine.exempt = p.engine.exempt := rfl
@[simp] theorem Part.setSlot_engine_epoch (p : Part) (i : Nat) (st : SlotState) : (p.setSlot i st).engine.epoch = p.engine.epoch := rfl
@[simp] theorem Part.setSlot_engine_bags (p : Part) (i : Nat) (st : SlotState) : (p.setSlot i st).engine.bags = p.engine.bags := rfl
@[simp] theorem Part.setSlot_engine_bagFree (p : Part) (i : Nat) (st : SlotState) : (p.setSlot i st).engine.bagFree = p.engine.bagFree := rfl
@[simp] theorem Part.setSlot_engine_checkouts (p : Part) (i : Nat) (st : SlotState) : (p.setSlot i st).engine.checkouts = p.engine.checkouts := rfl
@[simp] theorem Part.setSlot_engine_faults (p : Part) (i : Nat) (st : SlotState) : (p.setSlot i st).engine.faults = p.engine.faults := rfl
@[simp] theorem Part.setSlot_engine_unlisted (p : Part) (i : Nat) (st : SlotState) : (p.setSlot i st).engine.unlisted = p.engine.unlisted := rfl
@[simp] theorem Part.setSlot_engine_contexts (p : Part) (i : Nat) (st : SlotState) : (p.setSlot i st).engine.contexts = p.engine.contexts := rfl
@[simp] theorem Part.setSlot_engine_turn (p : Part) (i : Nat) (st : SlotState) : (p.setSlot i st).engine.turn = p.engine.turn := rfl
@[simp] theorem Part.setSlot_engine_holdRead (p : Part) (i : Nat) (st : SlotState) : (p.setSlot i st).engine.holdRead = p.engine.holdRead := rfl
@[simp] theorem Part.setSlot_engine_range (p : Part) (i : Nat) (st : SlotState) : (p.setSlot i st).engine.range = p.engine.range := rfl
@[simp] theorem Part.setSlot_engine_releaseAll (p : Part) (i : Nat) (st : SlotState) : (p.setSlot i st).engine.releaseAll = p.engine.releaseAll := rfl
@[simp] theorem Part.setSlot_engine_arrivals (p : Part) (i : Nat) (st : SlotState) : (p.setSlot i st).engine.arrivals = p.engine.arrivals := rfl
@[simp] theorem Part.setSlot_engine_performs (p : Part) (i : Nat) (st : SlotState) : (p.setSlot i st).engine.performs = p.engine.performs := rfl
@[simp] theorem Part.setSlot_engine_readies (p : Part) (i : Nat) (st : SlotState) : (p.setSlot i st).engine.readies = p.engine.readies := rfl

@[simp] theorem Part.setCtx_engine_mode (p : Part) (c : Nat) (x : Context) : (p.setCtx c x).engine.mode = p.engine.mode := rfl
@[simp] theorem Part.setCtx_engine_startKind (p : Part) (c : Nat) (x : Context) : (p.setCtx c x).engine.startKind = p.engine.startKind := rfl
@[simp] theorem Part.setCtx_engine_startOwed (p : Part) (c : Nat) (x : Context) : (p.setCtx c x).engine.startOwed = p.engine.startOwed := rfl
@[simp] theorem Part.setCtx_engine_roots (p : Part) (c : Nat) (x : Context) : (p.setCtx c x).engine.roots = p.engine.roots := rfl
@[simp] theorem Part.setCtx_engine_blockFree (p : Part) (c : Nat) (x : Context) : (p.setCtx c x).engine.blockFree = p.engine.blockFree := rfl
@[simp] theorem Part.setCtx_engine_slots (p : Part) (c : Nat) (x : Context) : (p.setCtx c x).engine.slots = p.engine.slots := rfl
@[simp] theorem Part.setCtx_engine_slotFree (p : Part) (c : Nat) (x : Context) : (p.setCtx c x).engine.slotFree = p.engine.slotFree := rfl
@[simp] theorem Part.setCtx_engine_retired (p : Part) (c : Nat) (x : Context) : (p.setCtx c x).engine.retired = p.engine.retired := rfl
@[simp] theorem Part.setCtx_engine_exempt (p : Part) (c : Nat) (x : Context) : (p.setCtx c x).engine.exempt = p.engine.exempt := rfl
@[simp] theorem Part.setCtx_engine_epoch (p : Part) (c : Nat) (x : Context) : (p.setCtx c x).engine.epoch = p.engine.epoch := rfl
@[simp] theorem Part.setCtx_engine_bags (p : Part) (c : Nat) (x : Context) : (p.setCtx c x).engine.bags = p.engine.bags := rfl
@[simp] theorem Part.setCtx_engine_bagFree (p : Part) (c : Nat) (x : Context) : (p.setCtx c x).engine.bagFree = p.engine.bagFree := rfl
@[simp] theorem Part.setCtx_engine_checkouts (p : Part) (c : Nat) (x : Context) : (p.setCtx c x).engine.checkouts = p.engine.checkouts := rfl
@[simp] theorem Part.setCtx_engine_faults (p : Part) (c : Nat) (x : Context) : (p.setCtx c x).engine.faults = p.engine.faults := rfl
@[simp] theorem Part.setCtx_engine_unlisted (p : Part) (c : Nat) (x : Context) : (p.setCtx c x).engine.unlisted = p.engine.unlisted := rfl
@[simp] theorem Part.setCtx_engine_turn (p : Part) (c : Nat) (x : Context) : (p.setCtx c x).engine.turn = p.engine.turn := rfl
@[simp] theorem Part.setCtx_engine_holdRead (p : Part) (c : Nat) (x : Context) : (p.setCtx c x).engine.holdRead = p.engine.holdRead := rfl
@[simp] theorem Part.setCtx_engine_range (p : Part) (c : Nat) (x : Context) : (p.setCtx c x).engine.range = p.engine.range := rfl
@[simp] theorem Part.setCtx_engine_releaseAll (p : Part) (c : Nat) (x : Context) : (p.setCtx c x).engine.releaseAll = p.engine.releaseAll := rfl
@[simp] theorem Part.setCtx_engine_arrivals (p : Part) (c : Nat) (x : Context) : (p.setCtx c x).engine.arrivals = p.engine.arrivals := rfl
@[simp] theorem Part.setCtx_engine_performs (p : Part) (c : Nat) (x : Context) : (p.setCtx c x).engine.performs = p.engine.performs := rfl
@[simp] theorem Part.setCtx_engine_readies (p : Part) (c : Nat) (x : Context) : (p.setCtx c x).engine.readies = p.engine.readies := rfl

end Sys2Proof.Machine
end

