-- ==== Sys2Proof/Laws/Answers.lean ====
section
/-! SUPPORT. What answering a context does to the ports: the operations that leave them as they are, and the answer that is
composed; what a fill installs, which slots a context waits for, and an advance that is cut off. -/

set_option linter.unusedSimpArgs false

namespace Sys2Proof.Machine

theorem foldl_port {β : Type} (f : Part → β → Part) (h : ∀ q b, (f q b).port = q.port) (l : List β) (p : Part) :
    (l.foldl f p).port = p.port := by
  induction l generalizing p with
  | nil => rfl
  | cons b l ih => simp [List.foldl, ih, h]

@[simp] theorem Part.updCtx_port (p : Part) (c : Nat) (f : Context → Context) :
    (Part.updCtx p c f).port = p.port := by
  simp only [Part.updCtx]
  (repeat' split) <;> simp

@[simp] theorem Part.grant_port (p : Part) (r : Requester) (a : Access) : (Part.grant p r a).port = p.port := by
  simp only [Part.grant]
  (repeat' split) <;> simp

@[simp] theorem Part.grantFirst_port (p : Part) (l : List Requester) : (p.grantFirst l).port = p.port := by
  induction l with
  | nil => rfl
  | cons r rest ih =>
    simp only [Part.grantFirst]
    split <;> simp [ih]

@[simp] theorem Part.arbitrate_port (p : Part) : (Part.arbitrate p).port = p.port := by
  simp only [Part.arbitrate]
  (repeat' split) <;> simp

@[simp] theorem Part.endAccess_port (p : Part) : (Part.endAccess p).port = p.port := by
  simp only [Part.endAccess]
  (repeat' split) <;> simp

@[simp] theorem Part.issueRead_port (p : Part) (client : ReadClient) (t : ReadTarget) :
    (Part.issueRead p client t).port = p.port := by
  simp only [Part.issueRead]
  (repeat' split) <;> simp

@[simp] theorem Part.resolveKey_port (p : Part) (c : Nat) (k : Key) (r : Resolution) :
    (Part.resolveKey p c k r).port = p.port := by
  simp only [Part.resolveKey]
  (repeat' split) <;> simp

@[simp] theorem Part.readyOn_port (p : Part) (c : Nat) (k : Key) (index slot : Nat) (form : KeyForm) :
    (Part.readyOn p c k index slot form).port = p.port := by
  simp only [Part.readyOn]
  (repeat' split) <;> simp

@[simp] theorem Part.returnSlot_port (p : Part) (slot : Nat) : (Part.returnSlot p slot).port = p.port := by
  simp only [Part.returnSlot]
  (repeat' split) <;> simp

@[simp] theorem Part.leaveMissWait_port (p : Part) (c : Nat) : (p.leaveMissWait c).port = p.port := by
  simp only [Part.leaveMissWait]
  (repeat' split) <;> rfl

@[simp] theorem Part.freeWalk_port (p : Part) (e : Nat) (w : Walk) : (Part.freeWalk p e w).port = p.port := by
  simp only [Part.freeWalk]
  (repeat' split) <;> simp

@[simp] theorem Part.walkFail_port (p : Part) (e : Nat) (w : Walk) (outcome : Resolution) :
    (Part.walkFail p e w outcome).port = p.port := by
  simp [Part.walkFail, foldl_port]

@[simp] theorem Part.walkBegin_port (p : Part) (e : Nat) (w : Walk) : (Part.walkBegin p e w).port = p.port := by
  simp only [Part.walkBegin]
  (repeat' split) <;> simp

@[simp] theorem Part.walkRestart_port (p : Part) (e : Nat) (w : Walk) (epoch : Nat) :
    (Part.walkRestart p e w epoch).port = p.port := by
  simp only [Part.walkRestart]
  (repeat' split) <;> simp

@[simp] theorem Part.miss_port (p : Part) (c : Nat) (k : Key) : (Part.miss p c k).port = p.port := by
  simp only [Part.miss]
  (repeat' split) <;> simp

@[simp] theorem Part.probeOnce_port (p : Part) (c : Nat) (k : Key) : (Part.probeOnce p c k).port = p.port := by
  simp only [Part.probeOnce]
  (repeat' split) <;> simp

theorem Part.probesFrom_port (n : Nat) : ∀ p : Part, (Part.probesFrom n p).port = p.port := by
  induction n with
  | zero => exact fun p => rfl
  | succ n ih =>
    intro p
    simp only [Part.probesFrom]
    split <;> simp [ih]

@[simp] theorem Part.makeProbes_port (p : Part) : p.makeProbes.port = p.port := Part.probesFrom_port _ p

@[simp] theorem Part.probe_port (p : Part) (c : Nat) (k : Key) : (p.probe c k).port = p.port := by
  simp [Part.probe]

@[simp] theorem Part.removeEntry_port (p : Part) (index : Nat) : (Part.removeEntry p index).port = p.port := by
  simp [Part.removeEntry, foldl_port]

@[simp] theorem Part.removeSlotEntry_port (p : Part) (slot : Nat) : (Part.removeSlotEntry p slot).port = p.port := by
  simp only [Part.removeSlotEntry]
  (repeat' split) <;> simp

@[simp] theorem Part.startKey_port (p : Part) (c : Nat) (q : Request) (k : Key) :
    (Part.startKey p c q k).port = p.port := by
  simp only [Part.startKey]
  (repeat' split) <;> simp

@[simp] theorem Part.leaveChained_port (p : Part) (c : Nat) (x : Context) :
    (Part.leaveChained p c x).port = p.port := by
  simp only [Part.leaveChained]
  split <;> simp [foldl_port]

@[simp] theorem Part.openGates_port (p : Part) : (Part.openGates p).port = p.port := by
  rw [Part.openGates, foldl_port]
  intro q b
  split <;> simp

@[simp] theorem Part.dropFaulted_port (p : Part) (slots : List Nat) : (Part.dropFaulted p slots).port = p.port := by
  rw [Part.dropFaulted, foldl_port]
  intro q b
  split <;> simp

/-! ### The answer of a context -/

theorem modifyAt_congr {α : Type} {l : List α} {i : Nat} {f g : α → α} (h : ∀ a, l[i]? = some a → f a = g a) :
    modifyAt l i f = modifyAt l i g := by
  apply List.ext_getElem?
  intro j
  simp only [getElem?_modifyAt]
  split
  · rename_i e
    subst e
    cases he : l[j]? with
    | none => rfl
    | some a => simp [h a he]
  · rfl

theorem Part.composeAnswer_port (p : Part) (i : Nat) (a : Answer) (ctx : Option Nat) :
    (p.composeAnswer i a ctx).port = p.port.withAnswer i a ctx := by
  have hq : (p.queueAnswer i a ctx).port = (p.setPort i fun q =>
      ({ q with answers := q.answers ++ [a], outstanding := q.outstanding - 1 } : Port).beginTurn).port := by
    simp only [Part.queueAnswer]
    (repeat' split) <;> rfl
  have he : ∀ q, p.port.ports[i]? = some q → p.portAt i = q := by
    intro q h
    simp [Part.portAt, List.getD_eq_getElem?_getD, h]
  simp only [Part.composeAnswer, PortUnit.withAnswer]
  split
  · rename_i hc
    rw [hq]
    simp only [Part.setPort]
    congr 1
    refine modifyAt_congr fun q h => ?_
    rw [he q h] at hc
    rw [if_pos hc]
  · rename_i hc
    simp only [Part.setPort]
    congr 1
    refine modifyAt_congr fun q h => ?_
    rw [he q h] at hc
    rw [if_neg hc]

theorem Part.ctx?_setCtx (p : Part) (c : Nat) (x : Context) : (p.setCtx c x).ctx? c = some x := by
  simp [Part.ctx?, Part.setCtx, tfind_tput_self]

theorem Part.answer_port {p : Part} {c : Nat} {x : Context} (h : p.ctx? c = some x) (r : Reply) :
    (p.answer c r).port = p.port.withAnswer x.port (x.answerWith r) (some c) := by
  simp only [Part.answer, h, Part.openGates_port, Part.dropFaulted_port, Part.composeAnswer_port]
  split
  · split <;> rfl
  · rfl

/-- The answer of a context that nothing holds back is composed in the act (R143). -/
theorem Part.reply_port {p : Part} {c : Nat} {x : Context} (h : p.ctx? c = some x) (hs : x.unanswered = true)
    (hi : x.toIssue = [] ∧ x.outstanding = 0) (hw : p.hasHeld c = false ∧ p.flushes c = false) (st : Status) (body : Body) :
    (p.reply c st body).port = p.port.withAnswer x.port (x.answerWith ⟨st, body⟩) (some c) := by
  have hu : (p.updCtx c fun x => { x with reply := some ⟨st, body⟩ }) = p.setCtx c { x with reply := some ⟨st, body⟩ } := by
    simp [Part.updCtx, h]
  have hf : (p.setCtx c { x with reply := some ⟨st, body⟩ }).finish c
      = (p.setCtx c { x with reply := some ⟨st, body⟩ }).answer c ⟨st, body⟩ := by
    unfold Part.finish
    rw [Part.ctx?_setCtx]
    have hg : ({ x with reply := some ⟨st, body⟩ } : Context).unanswered = true
        ∧ ({ x with reply := some ⟨st, body⟩ } : Context).toIssue = []
        ∧ ({ x with reply := some ⟨st, body⟩ } : Context).outstanding = 0 := ⟨hs, hi.1, hi.2⟩
    have hn : ((p.setCtx c { x with reply := some ⟨st, body⟩ }).hasHeld c
        || (p.setCtx c { x with reply := some ⟨st, body⟩ }).flushes c) = false := by
      show (p.hasHeld c || p.flushes c) = false
      rw [hw.1, hw.2]
      rfl
    show (if _ then if _ then _ else _ else _) = _
    rw [if_pos hg, if_neg (by rw [hn]; decide)]
  simp only [Part.reply, hu, hf]
  exact Part.answer_port (Part.ctx?_setCtx _ _ _) _

/-! ### A context whose performance has begun -/

theorem begun_books (p : Part) (c : Nat) (x : Context) : (p.begun c x).books = p.books := by
  simp only [Part.begun, Part.beginPerform]
  exact Part.setCtx_books _ _ _

theorem begun_port (p : Part) (c : Nat) (x : Context) : (p.begun c x).port = p.port := rfl

theorem begun_ctx (p : Part) (c : Nat) (x : Context) : (p.begun c x).ctx? c = some (p.beginPerform c x).2 :=
  Part.ctx?_setCtx _ _ _

theorem begun_zone (p : Part) (c : Nat) (x : Context) : (p.begun c x).zone = p.zone := rfl

theorem begun_tally (p : Part) (c : Nat) (x : Context) : (p.begun c x).tally = p.tally := rfl

theorem begun_path (p : Part) (c : Nat) (x : Context) : (p.begun c x).path = p.path := rfl

theorem begun_mem (p : Part) (c : Nat) (x : Context) : (p.begun c x).mem = p.mem := rfl

theorem beginPerform_stage (p : Part) (c : Nat) (x : Context) : (p.beginPerform c x).2.stage = .performed := rfl

theorem beginPerform_idle (p : Part) (c : Nat) (x : Context) :
    (p.beginPerform c x).2.toIssue = x.toIssue ∧ (p.beginPerform c x).2.outstanding = x.outstanding := by
  rcases rechecked_cases p x with h | ⟨keys, h⟩ <;> simp only [Part.beginPerform, h] <;> constructor <;> split <;> rfl

theorem beginPerform_answerWith (p : Part) (c : Nat) (x : Context) (r : Reply) :
    (p.beginPerform c x).2.answerWith r = x.answerWith r := by
  simp [Context.answerWith]

/-- The answer composed for a context in the act of its performance, whatever else of the ports has changed before. -/
theorem performed_reply_port {p q : Part} {c : Nat} {x : Context} (h : p.Performs c x)
    (hc : q.ctx? c = some (p.beginPerform c x).2) (hw : q.hasHeld c = false ∧ q.flushes c = false) (st : Status)
    (body : Body) : (q.reply c st body).port = q.port.withAnswer x.port (x.answerWith ⟨st, body⟩) (some c) := by
  have hi := beginPerform_idle p c x
  rw [Part.reply_port hc (by simp [Context.unanswered, beginPerform_stage])
    ⟨by rw [hi.1]; exact h.noCommand.1, by rw [hi.2]; exact h.noCommand.2⟩ hw, beginPerform_port, beginPerform_answerWith]

/-- An answer whose request is not RESTART or FORMAT begins no start. -/
theorem answerWith_eq {x : Context} (hr : x.request ≠ .restart) (hf : x.request ≠ .format) (r : Reply) :
    x.answerWith r = { code := requestCode x.request, tag := x.tag, body := ⟨1, r.status.code⟩ :: r.body } := by
  simp only [Context.answerWith, fNum]
  cases h : x.request <;> simp_all

/-- A performance that comes down to one answer over a part whose context is as it was when the performance began. -/
theorem answers_of_performing {i : Instr} {s : State} {c : Nat} {x : Context} {p q : Part} {st : Status} {body : Body}
    {row : Nat → Part → Context → Option Part} (h : s.part.Performs c x) (he : exec i s = s.performing c row)
    (hr : row c (s.part.begun c x) (s.part.beginPerform c x).2 = some (q.reply c st body))
    (hc : q.ctx? c = some (s.part.beginPerform c x).2) (hb : q.books = p.books) (hp : q.port = p.port)
    (hw : q.hasHeld c = false ∧ q.flushes c = false) (hn : x.request ≠ .restart ∧ x.request ≠ .format) :
    Answers i s c x p st body := by
  refine ⟨{ s with part := q.reply c st body }, ?_, rfl, ?_, ?_⟩
  · rw [he, performing_eq h, hr]
    rfl
  · rw [← hb]
    exact Part.reply_books _ _ _ _
  · show (q.reply c st body).port = _
    rw [performed_reply_port h hc hw, hp, answerWith_eq hn.1 hn.2]

/-! ### The newest record, the slots waited for, an advance that is cut off -/

/-- What a fill installs (R116) is the youngest record of the write stream, -/
theorem Part.newestRecord_of_stream {p : Part} {slot : Nat} {r n : CarrierRecord}
    (h : streamValue p.stream (.record slot) = some (.record (some n) true)) : p.newestRecord slot r = n := by
  simp [Part.newestRecord, h]

/-- or else the sound record of the memory, -/
theorem Part.newestRecord_of_memory {p : Part} {slot : Nat} {r n : CarrierRecord}
    (h : streamValue p.stream (.record slot) = none) (hm : p.mem.value (.record slot) = .record (some n) true) :
    p.newestRecord slot r = n := by
  simp [Part.newestRecord, h, hm]

/-- or else the record as it was read. -/
theorem Part.newestRecord_of_read {p : Part} {slot : Nat} {r : CarrierRecord}
    (h : streamValue p.stream (.record slot) = none) (hm : ∀ n, p.mem.value (.record slot) ≠ .record (some n) true) :
    p.newestRecord slot r = r := by
  simp only [Part.newestRecord, h, Option.getD_none]
  split
  · exact absurd ‹_› (hm _)
  all_goals rfl

/-- The slots no other context may be active on (R70, R140). -/
theorem Part.mem_guardedSlots {p : Part} {x : Context} {n : Nat} : n ∈ p.guardedSlots x ↔
    n ∈ x.chainSlots ∨ ∃ b z, x.request = .moveGroup b z ∧ ∃ m ∈ (p.bagAt b).members, m.1 = n := by
  unfold Part.guardedSlots
  cases x.request <;> simp

/-- A meter advance in flight is lost (R21, R208). -/
theorem Part.landInFlight_advance {p : Part} {r : MeterArea} {g : Bool} (h : p.path.inFlight = some (.advance r g)) :
    p.landInFlight = p := by
  simp [Part.landInFlight, h]

end Sys2Proof.Machine
end

