-- ==== Sys2Proof/Laws/Lists.lean ====
section
/-! SUPPORT. What bringing a due list current can do (R34): the flags and expired-at of RESIDENT tallies, cursors, writes that
belong to no command, and notices; everything else stays. The cursors stand as R33 requires. -/

namespace Sys2Proof.Machine

/-! ### Tallies and lists after a write -/

@[simp] theorem Part.arbitrate_tally (p : Part) : p.arbitrate.tally = p.tally := by
  have h := Part.arbitrate_books p
  exact congrArg Books.tally h

@[simp] theorem Part.arbitrate_zone (p : Part) : p.arbitrate.zone = p.zone := congrArg Books.zone (Part.arbitrate_books p)

@[simp] theorem Part.arbitrate_mem (p : Part) : p.arbitrate.mem = p.mem := congrArg Books.mem (Part.arbitrate_books p)

theorem Part.grantFirst_engine (p : Part) (l : List Requester) : (p.grantFirst l).engine = p.engine := by
  induction l with
  | nil => rfl
  | cons r rest ih =>
    simp only [Part.grantFirst]
    split
    · simp only [Part.grant]
      split <;> rfl
    · exact ih

@[simp] theorem Part.arbitrate_engine (p : Part) : p.arbitrate.engine = p.engine := by
  simp only [Part.arbitrate]
  split
  · rfl
  · exact Part.grantFirst_engine _ _

@[simp] theorem Part.arbitrate_free (p : Part) : p.arbitrate.free = p.free := congrArg Books.free (Part.arbitrate_books p)

theorem Part.setTally_tally (p : Part) (n : Nat) (t : Tally) (cmd : Option Nat) :
    (p.setTally n t cmd).tally = { p.tally with
      table := tset p.tally.table n t .free, writes := p.tally.writes ++ [(⟨n, t, cmd⟩ : TallyWrite)] } := by
  simp only [Part.setTally, Part.arbitrate_tally]

theorem Part.tallyAt_setTally_self (p : Part) (n : Nat) (t : Tally) (cmd : Option Nat) : (p.setTally n t cmd).tallyAt n = t := by
  simp only [Part.tallyAt, Part.setTally_tally, tget_tset_self]

theorem Part.tallyAt_setTally_of_ne (p : Part) {n m : Nat} (t : Tally) (cmd : Option Nat) (h : m ≠ n) :
    (p.setTally n t cmd).tallyAt m = p.tallyAt m := by
  simp only [Part.tallyAt, Part.setTally_tally, tget_tset_of_ne _ _ _ _ _ h]

theorem Part.residentAt_iff (p : Part) (n : Nat) (r : Resident) : p.residentAt n = some r ↔ p.tallyAt n = .resident r := by
  simp only [Part.residentAt]
  split <;> simp_all

theorem Part.residentAt_of_tallyAt {p q : Part} {n : Nat} (h : q.tallyAt n = p.tallyAt n) : q.residentAt n = p.residentAt n := by
  simp only [Part.residentAt, h]

theorem Part.listAt_setList_self (p : Part) (l : Nat) (d : DueList) : (p.setList l d).listAt l = d := by
  simp only [Part.listAt, Part.setList, tget_tset_self]

theorem Part.listAt_setList_of_ne (p : Part) {l k : Nat} (d : DueList) (h : k ≠ l) : (p.setList l d).listAt k = p.listAt k := by
  simp only [Part.listAt, Part.setList, tget_tset_of_ne _ _ _ _ _ h]

/-! ### Notices change the ports alone -/

theorem Part.giveOn_eq (p : Part) (i : Nat) (kind : NoticeKind) (copy : Bool) (body : Body) :
    ∃ u, p.giveOn i kind copy body = { p with port := u } := ⟨_, rfl⟩

theorem Part.giveRouted_eq (p : Part) (kind : NoticeKind) (body : Body) :
    p.giveRouted kind body = { p with port := p.port.withNotice kind body } := by
  cases hk : kind.routeIndex with
  | none => simp only [Part.giveRouted, Part.routeOf, PortUnit.withNotice, hk]
  | some k =>
    cases hr : p.port.routing.getD k none with
    | none => simp only [Part.giveRouted, Part.routeOf, PortUnit.withNotice, hk, hr]
    | some i => simp only [Part.giveRouted, Part.routeOf, PortUnit.withNotice, hk, hr, Part.giveOn, Part.setPort]

theorem foldl_onlyPort {β : Type} (f : Part → β → Part) (h : ∀ q b, ∃ u, f q b = { q with port := u }) (l : List β) (p : Part) :
    ∃ u, l.foldl f p = { p with port := u } := by
  induction l generalizing p with
  | nil => exact ⟨p.port, rfl⟩
  | cons b l ih =>
    obtain ⟨u, hu⟩ := h p b
    obtain ⟨v, hv⟩ := ih (f p b)
    exact ⟨v, by rw [List.foldl_cons, hv, hu]⟩

theorem Part.giveTallyNotice_eq (p : Part) (kind : NoticeKind) (n : Nat) (r : Resident) :
    ∃ u, p.giveTallyNotice kind n r = { p with port := u } := by
  simp only [Part.giveTallyNotice, Part.giveRouted_eq]
  obtain ⟨u, hu⟩ := foldl_onlyPort (fun (q : Part) i =>
    if ((p.holders n).filter fun h => h.port == i) = [] ∨ p.routeOf kind = some i then q
    else q.giveOn i kind true (p.tallyNoticeBody kind r
      ++ fList (fun h => [fKey h.primary, fNum 1 h.station]) ((p.holders n).filter fun h => h.port == i)))
    (by intro q b; split <;> first | exact ⟨q.port, rfl⟩ | exact q.giveOn_eq ..) (List.range Config.numPorts)
    { p with port := p.port.withNotice kind (p.tallyNoticeBody kind r) }
  exact ⟨u, hu⟩

/-- The notice of a tally that nobody holds goes to the routed port alone (R165). -/
theorem Part.giveTallyNotice_unheld (p : Part) (kind : NoticeKind) (n : Nat) (r : Resident) (h : p.holders n = []) :
    p.giveTallyNotice kind n r = { p with port := p.port.withNotice kind (p.tallyNoticeBody kind r) } := by
  have hid : ∀ (l : List Nat) (q : Part), l.foldl (fun q _ => q) q = q := by
    intro l
    induction l with
    | nil => exact fun q => rfl
    | cons b l ih => exact fun q => ih q
  simp only [Part.giveTallyNotice, Part.giveRouted_eq, h, List.filter_nil, true_or, if_true]
  exact hid _ _

/-! ### Bringing a list current -/

/-- What bringing lists current has left as it was, and how it has changed the rest. -/
structure Brought (p q : Part) : Prop where
  engine     : q.engine = p.engine
  zone       : q.zone = p.zone
  mem        : q.mem = p.mem
  free       : q.free = p.free
  queue      : q.tally.queue = p.tally.queue
  occupancy  : q.tally.occupancy = p.tally.occupancy
  useCounts  : q.tally.useCounts = p.tally.useCounts
  armSeq     : q.tally.armSeq = p.tally.armSeq
  marks      : q.tally.marks = p.tally.marks
  lastList   : q.tally.lastList = p.tally.lastList
  lastSource : q.tally.lastSource = p.tally.lastSource
  bakeWalks  : q.tally.bakeWalks = p.tally.bakeWalks
  newWrites  : ∃ ws, q.tally.writes = p.tally.writes ++ ws ∧ ∀ w ∈ ws, w.cmd = none
  books      : q.path.queue = p.path.queue ∧ q.path.held = p.path.held ∧ q.path.flush = p.path.flush
  lists      : ∀ l, (q.listAt l).order = (p.listAt l).order ∧ (q.listAt l).walk = (p.listAt l).walk
                 ∧ (q.listAt l).busy = (p.listAt l).busy
  residents  : ∀ n r, p.residentAt n = some r → ∃ w e,
                 q.residentAt n = some { r with acct := { r.acct with warned := w, expiredAt := e } }
                   ∧ (r.acct.warned = true → w = true) ∧ (e = r.acct.expiredAt ∨ e = some p.expiryMinute)
  others     : ∀ n, p.residentAt n = none → q.tallyAt n = p.tallyAt n
  unlisted   : ∀ n r, p.residentAt n = some r → r.marks = none → q.tallyAt n = p.tallyAt n

theorem Brought.refl (p : Part) : Brought p p where
  engine := rfl
  zone := rfl
  mem := rfl
  free := rfl
  queue := rfl
  occupancy := rfl
  useCounts := rfl
  armSeq := rfl
  marks := rfl
  lastList := rfl
  lastSource := rfl
  bakeWalks := rfl
  newWrites := ⟨[], by simp⟩
  books := ⟨rfl, rfl, rfl⟩
  lists _ := ⟨rfl, rfl, rfl⟩
  residents n r h := ⟨r.acct.warned, r.acct.expiredAt, h, id, Or.inl rfl⟩
  others _ _ := rfl
  unlisted _ _ _ _ := rfl

theorem Brought.expiryMinute {p q : Part} (h : Brought p q) : q.expiryMinute = p.expiryMinute := by
  simp only [Part.expiryMinute, h.zone, h.free]

theorem Brought.trans {p q r : Part} (h : Brought p q) (k : Brought q r) : Brought p r where
  engine := k.engine.trans h.engine
  zone := k.zone.trans h.zone
  mem := k.mem.trans h.mem
  free := k.free.trans h.free
  queue := k.queue.trans h.queue
  occupancy := k.occupancy.trans h.occupancy
  useCounts := k.useCounts.trans h.useCounts
  armSeq := k.armSeq.trans h.armSeq
  marks := k.marks.trans h.marks
  lastList := k.lastList.trans h.lastList
  lastSource := k.lastSource.trans h.lastSource
  bakeWalks := k.bakeWalks.trans h.bakeWalks
  newWrites := by
    obtain ⟨ws, e, hw⟩ := h.newWrites
    obtain ⟨vs, e', hv⟩ := k.newWrites
    refine ⟨ws ++ vs, by rw [e', e, List.append_assoc], fun w hw' => ?_⟩
    rcases List.mem_append.1 hw' with m | m
    · exact hw w m
    · exact hv w m
  books := ⟨k.books.1.trans h.books.1, k.books.2.1.trans h.books.2.1, k.books.2.2.trans h.books.2.2⟩
  lists l := ⟨(k.lists l).1.trans (h.lists l).1, (k.lists l).2.1.trans (h.lists l).2.1, (k.lists l).2.2.trans (h.lists l).2.2⟩
  residents n a ha := by
    obtain ⟨w, e, h1, h2, h3⟩ := h.residents n a ha
    obtain ⟨w', e', k1, k2, k3⟩ := k.residents n _ h1
    refine ⟨w', e', k1, fun x => k2 (h2 x), ?_⟩
    rcases k3 with rfl | rfl
    · exact h3
    · exact Or.inr (by rw [h.expiryMinute])
  others n hn := by
    have e := h.others n hn
    exact (k.others n (by rw [Part.residentAt_of_tallyAt e]; exact hn)).trans e
  unlisted n a ha hm := by
    have e := h.unlisted n a ha hm
    exact (k.unlisted n a (by rw [Part.residentAt_of_tallyAt e]; exact ha) hm).trans e

/-- One tally flagged, its list's cursors moved, a notice given. -/
theorem Brought.flag {p : Part} {l n : Nat} {r : Resident} {w : Bool} {e : Option Nat} (d : DueList) (u : PortUnit)
    (hr : p.residentAt n = some r) (hm : r.marks ≠ none) (hw : r.acct.warned = true → w = true)
    (he : e = r.acct.expiredAt ∨ e = some p.expiryMinute)
    (hd : d.order = (p.listAt l).order ∧ d.walk = (p.listAt l).walk ∧ d.busy = (p.listAt l).busy) :
    Brought p { (p.setTally n (.resident { r with acct := { r.acct with warned := w, expiredAt := e } }) none).setList l d with
      port := u } where
  engine := by simp [Part.setTally, Part.setList]
  zone := by simp [Part.setTally, Part.setList]
  mem := by simp [Part.setTally, Part.setList]
  free := by simp [Part.setTally, Part.setList]
  queue := by simp [Part.setTally, Part.setList]
  occupancy := by simp [Part.setTally, Part.setList]
  useCounts := by simp [Part.setTally, Part.setList]
  armSeq := by simp [Part.setTally, Part.setList]
  marks := by simp [Part.setTally, Part.setList]
  lastList := by simp [Part.setTally, Part.setList]
  lastSource := by simp [Part.setTally, Part.setList]
  bakeWalks := by simp [Part.setTally, Part.setList]
  newWrites := ⟨[_], by simp [Part.setTally, Part.setList]; rfl, by simp⟩
  books := by
    have hb := Part.arbitrate_books ({ p with
      tally.table := tset p.tally.table n (.resident { r with acct := { r.acct with warned := w, expiredAt := e } }) .free
      tally.writes := p.tally.writes ++ [(⟨n, .resident { r with acct := { r.acct with warned := w, expiredAt := e } }, none⟩ :
        TallyWrite)] } : Part)
    exact ⟨congrArg Books.queue hb, congrArg Books.held hb, congrArg Books.flush hb⟩
  lists k := by
    show (((p.setTally n _ none).setList l d).listAt k).order = _ ∧ (((p.setTally n _ none).setList l d).listAt k).walk = _
      ∧ (((p.setTally n _ none).setList l d).listAt k).busy = _
    by_cases hk : k = l
    · subst hk
      rw [Part.listAt_setList_self]
      exact hd
    · rw [Part.listAt_setList_of_ne _ _ hk]
      simp [Part.listAt, Part.setTally]
  residents m a ha := by
    by_cases hn : m = n
    · subst hn
      rw [hr] at ha
      cases ha
      exact ⟨w, e, (Part.residentAt_iff _ _ _).2 (Part.tallyAt_setTally_self p m _ none), hw, he⟩
    · have h' := Part.tallyAt_setTally_of_ne p
        (.resident { r with acct := { r.acct with warned := w, expiredAt := e } }) none hn
      exact ⟨a.acct.warned, a.acct.expiredAt, (Part.residentAt_of_tallyAt h').trans ha, id, Or.inl rfl⟩
  others m hm' := by
    refine Part.tallyAt_setTally_of_ne p _ none ?_
    rintro rfl
    rw [hr] at hm'
    cases hm'
  unlisted m a ha hma := by
    refine Part.tallyAt_setTally_of_ne p _ none ?_
    rintro rfl
    rw [hr] at ha
    cases ha
    exact hm hma

theorem expireAt_brought {p : Part} {l n : Nat} {r : Resident} (hr : p.residentAt n = some r) (hm : r.marks ≠ none) :
    Brought p (p.expireAt l n r) := by
  simp only [Part.expireAt, Part.setCursors]
  obtain ⟨u, hu⟩ := Part.giveTallyNotice_eq _ .expired n
    { r with acct := { r.acct with warned := true, expiredAt := some p.expiryMinute } }
  rw [hu]
  exact Brought.flag _ u hr hm (fun _ => rfl) (Or.inr rfl) (by simp [Part.listAt, Part.setTally])

theorem warnAt_brought {p : Part} {l n : Nat} {r : Resident} (hr : p.residentAt n = some r) (hm : r.marks ≠ none) :
    Brought p (p.warnAt l n r) := by
  simp only [Part.warnAt]
  obtain ⟨u, hu⟩ := Part.giveTallyNotice_eq _ .warn n { r with acct := { r.acct with warned := true } }
  rw [hu]
  exact Brought.flag (e := r.acct.expiredAt) _ u hr hm (fun _ => rfl) (Or.inl rfl) (by simp [Part.listAt, Part.setTally])

theorem expireDue_brought (l m fuel : Nat) (p : Part) : Brought p (Part.expireDue l m fuel p) := by
  induction fuel generalizing p with
  | zero => exact Brought.refl p
  | succ k ih =>
    simp only [Part.expireDue]
    split
    · exact Brought.refl p
    · split
      · exact Brought.refl p
      · rename_i r hr
        split
        · rename_i marks hm
          split
          · exact (expireAt_brought hr (by rw [hm]; simp)).trans (ih _)
          · exact Brought.refl p
        · exact Brought.refl p

theorem warnDue_brought (l m fuel : Nat) (p : Part) : Brought p (Part.warnDue l m fuel p) := by
  induction fuel generalizing p with
  | zero => exact Brought.refl p
  | succ k ih =>
    simp only [Part.warnDue]
    split
    · exact Brought.refl p
    · split
      · exact Brought.refl p
      · rename_i r hr
        split
        · rename_i marks hm
          split
          · exact (warnAt_brought hr (by rw [hm]; simp)).trans (ih _)
          · exact Brought.refl p
        · exact Brought.refl p

/-- Bringing a list current (R34). -/
theorem bringCurrent_brought (p : Part) (l : Nat) : Brought p (p.bringCurrent l) :=
  (expireDue_brought l _ _ p).trans (warnDue_brought l _ _ _)

theorem bringListed_brought (p : Part) (zone cls : Nat) : Brought p (p.bringListed zone cls) := by
  simp only [Part.bringListed]
  split
  · exact bringCurrent_brought p _
  · exact Brought.refl p

/-! ### The law of the cursors (R33) -/

/-- Each cursor of a list stands on the first tally that lacks its flag, or at end. -/
def Part.cursorsStand (p : Part) (l : Nat) : Prop :=
  (p.listAt l).expiryCursor = p.firstWith (p.listAt l).order (fun a => !a.expired)
    ∧ (p.listAt l).warnCursor = p.firstWith (p.listAt l).order (fun a => !a.warned)

/-- What the tally at `n` says of a test is all that the first tally of an order depends on. -/
theorem firstWith_congr {p q : Part} {f : Account → Bool} (order : List Nat)
    (h : ∀ n, (q.residentAt n).any (fun r => f r.acct) = (p.residentAt n).any fun r => f r.acct) :
    q.firstWith order f = p.firstWith order f := by
  have e : ∀ p : Part, p.firstWith order f = order.find? fun n => (p.residentAt n).any fun r => f r.acct := by
    intro p
    simp only [Part.firstWith]
    congr 1
    funext n
    cases p.residentAt n <;> rfl
  rw [e, e]
  congr 1
  funext n
  exact h n

theorem cursorsStand_of_tally {p q : Part} (l : Nat) (h : q.tally = p.tally) : q.cursorsStand l ↔ p.cursorsStand l := by
  have hr : ∀ n, q.residentAt n = p.residentAt n := fun n =>
    Part.residentAt_of_tallyAt (by simp only [Part.tallyAt, h])
  have hl : q.listAt l = p.listAt l := by simp only [Part.listAt, h]
  have hf : ∀ order (f : Account → Bool), q.firstWith order f = p.firstWith order f := fun order f =>
    firstWith_congr order fun n => by rw [hr]
  simp only [Part.cursorsStand, hl, hf]

theorem giveTallyNotice_cursorsStand (p : Part) (kind : NoticeKind) (n : Nat) (r : Resident) (l : Nat) :
    (p.giveTallyNotice kind n r).cursorsStand l ↔ p.cursorsStand l := by
  obtain ⟨u, hu⟩ := p.giveTallyNotice_eq kind n r
  rw [hu]
  exact cursorsStand_of_tally l rfl

/-- Setting a list's cursors makes the law hold, whatever was flagged, inserted or removed before. -/
theorem setCursors_cursorsStand (p : Part) (l : Nat) : (p.setCursors l).cursorsStand l := by
  simp only [Part.cursorsStand, Part.setCursors, Part.listAt_setList_self]
  exact ⟨rfl, rfl⟩

theorem expireAt_cursorsStand (p : Part) (l n : Nat) (r : Resident) : (p.expireAt l n r).cursorsStand l := by
  simp only [Part.expireAt, giveTallyNotice_cursorsStand]
  exact setCursors_cursorsStand _ l

/-- A WARN leaves every expired flag, so the expiry cursor stands as it did. -/
theorem warnAt_cursorsStand {p : Part} {l n : Nat} {r : Resident} (hr : p.residentAt n = some r) (h : p.cursorsStand l) :
    (p.warnAt l n r).cursorsStand l := by
  simp only [Part.warnAt, giveTallyNotice_cursorsStand]
  simp only [Part.cursorsStand, Part.listAt_setList_self]
  have hl : (p.setTally n (.resident { r with acct := { r.acct with warned := true } }) none).listAt l = p.listAt l := by
    simp [Part.listAt, Part.setTally]
  refine ⟨?_, rfl⟩
  rw [hl, h.1]
  refine (firstWith_congr _ fun m => ?_).symm
  show ((p.setTally n _ none).residentAt m).any _ = _
  by_cases hm : m = n
  · subst hm
    rw [(Part.residentAt_iff _ _ _).2 (Part.tallyAt_setTally_self p m _ none), hr]
    rfl
  · rw [Part.residentAt_of_tallyAt (Part.tallyAt_setTally_of_ne p _ none hm)]

theorem expireDue_cursorsStand (l m fuel : Nat) {p : Part} (h : p.cursorsStand l) :
    (Part.expireDue l m fuel p).cursorsStand l := by
  induction fuel generalizing p with
  | zero => exact h
  | succ k ih =>
    simp only [Part.expireDue]
    split
    · exact h
    · split
      · exact h
      · split
        · split
          · exact ih (expireAt_cursorsStand ..)
          · exact h
        · exact h

theorem warnDue_cursorsStand (l m fuel : Nat) {p : Part} (h : p.cursorsStand l) :
    (Part.warnDue l m fuel p).cursorsStand l := by
  induction fuel generalizing p with
  | zero => exact h
  | succ k ih =>
    simp only [Part.warnDue]
    split
    · exact h
    · split
      · exact h
      · rename_i r hr
        split
        · split
          · exact ih (warnAt_cursorsStand hr h)
          · exact h
        · exact h

/-- Bringing a list current keeps the law of its cursors (R33), however its flagged tallies stand. -/
theorem bringCurrent_cursorsStand {p : Part} {l : Nat} (h : p.cursorsStand l) : (p.bringCurrent l).cursorsStand l :=
  warnDue_cursorsStand l _ _ (expireDue_cursorsStand l _ _ h)

end Sys2Proof.Machine
end

