-- ==== Sys2Proof/Tests/Slice0.lean ====
section
/-! SUPPORT. Tests: ill-formed commands that the well-formedness check refuses, steps on small states, and for every statement with
hypotheses a state and operands that meet them, clause by clause (`test_witness_<statement>`). -/

namespace Sys2Proof.Tests

open Sys2Proof.Machine

set_option maxRecDepth 100000

/-! ### Well-formedness: the check refuses a command that names a unit the part does not have -/

theorem test_ill_formed_zone : [Instr.bakeComplete 32, .conditionLineChange 32 true, .bakeWalkStep 32].all
    (fun i => !i.wellFormed) = true := by decide

theorem test_ill_formed_list : [Instr.insertionWalkStep 256, .listDueWalkStep 256].all (fun i => !i.wellFormed) = true := by
  decide

theorem test_ill_formed_entry : (Instr.walkReadComplete 8).wellFormed = false := by decide

theorem test_ill_formed_port : [Instr.answerQueued 4, .turnComplete 4, .loseSync 4 [], .candidateRejected 4 [],
    .wrongKindFrame 4 [], .requestArrival 4 []].all (fun i => !i.wellFormed) = true := by decide

/-- The rows that name a request context. -/
def contextRows : List (Nat → Instr) :=
  [.enroll, .lookup, .verify, .openOne, .multiKeyOpen, .move, .seal, .retire, .relabel, .checkout, .release, .moveGroup,
    .listBag, .listDue, .listCheckouts, .holdCarrier, .holdBag, .holdLot, .holdConsignor, .unholdCarrier, .unholdBag,
    .unholdLot, .unholdConsignor, .climate, .trip, .clearTrip, .bakeStart, .bakeStop, .status, .classSet, .bandSet,
    .weightSet, .zoneSet, .portSet, .consignorSet, .routeSet, .exemptSet, .timeSet, .forceRetire, .faultClear, .releaseAll,
    .restart, .format]

theorem test_ill_formed_context : contextRows.all (fun mk => !(mk 16).wellFormed) = true := by decide

theorem test_well_formed_at_the_bounds : contextRows.all (fun mk => (mk 15).wellFormed) = true
    ∧ [Instr.bakeComplete 31, .conditionLineChange 31 true, .bakeWalkStep 31, .insertionWalkStep 255, .listDueWalkStep 255,
      .walkReadComplete 7, .answerQueued 3, .turnComplete 3, .loseSync 3 [], .candidateRejected 3 [], .wrongKindFrame 3 [],
      .requestArrival 3 []].all Instr.wellFormed = true := by decide

theorem test_absent_context_faults : exec (.enroll 16) State.reset = .fault .noSuchContext := rfl

/-! ### Small states -/

/-- A part that runs, with nothing due. -/
def calm : Part := { ({} : Part) with engine.mode := .running, zone.wallMinute := some 100, zone.linesTaken := true }

def on (p : Part) : State := { pending := [], part := p }

/-- A context that has resolved its keys and is to be performed. -/
def ask (r : Request) (keys : List CtxKey := []) : Context :=
  { port := 0, tag := 1, arrival := 0, request := r, keys := keys, stage := .resolving }

/-- A part with one context, number 15. -/
def busy (x : Context) (p : Part := calm) : Part := { p with engine.contexts := [(15, x)] }

/-- `Part.Performs` as a check. -/
def performsNow (p : Part) (c : Nat) (x : Context) : Bool :=
  decide (c < 16) && p.alive && decide (p.path.owedProbes = []) && decide (p.ctx? c = some x) && p.performable c
    && decide (x.toIssue = [] ∧ x.outstanding = 0) && !p.hasHeld c && !p.flushes c

theorem performs_of {p : Part} {c : Nat} {x : Context} (h : performsNow p c x = true) : p.Performs c x := by
  simp only [performsNow, Bool.and_eq_true, decide_eq_true_eq, Bool.not_eq_true'] at h
  obtain ⟨⟨⟨⟨⟨⟨⟨h1, h2⟩, h3⟩, h4⟩, h5⟩, h6⟩, h7⟩, h8⟩ := h
  exact ⟨h1, h2, h3, h4, h5, h6, h7, h8⟩

/-- A request is performed by context 15 of a part. -/
def performedOn (p : Part) (x : Context) : Prop := (busy x p).Performs 15 x

theorem performed_of {p : Part} {x : Context} (h : performsNow (busy x p) 15 x = true) : performedOn p x := performs_of h

/-- Context 15 waits for its one tally command, number 7. -/
def waiter (r : Request) : Context :=
  { port := 1, tag := 9, arrival := 0, request := r, stage := .awaitingTally, outstanding := 1 }

/-- Context 15 waits for something other than a tally command. -/
def idler (r : Request) : Context := { port := 1, tag := 9, arrival := 0, request := r, stage := .performed }

def cmd (op : TallyOp) : TallyCmd := { id := 7, ctx := 15, op := op }

def key (c l n : Nat) : Key := ⟨BitVec.ofNat 8 c, BitVec.ofNat 12 l, BitVec.ofNat 12 n⟩

def rec0 : CarrierRecord := { primary := key 255 4095 4095 }

/-- Slot 65,535 with its record in the cache, set 63, way 3. -/
def cached (r : CarrierRecord := rec0) (p : Part := calm) : Part :=
  { p with
    path.cache := [(255, { slot := 65535, record := r, conHold := none, lotHold := none, pinned := r.checkout.isSome
                           fillEpoch := 0 })]
    engine.slots := [(65535, .live)] }

/-- The key of `rec0`, READY on its entry. -/
def keyed : List CtxKey := [⟨key 255 4095 4095, .entry 255 65535 0 .primary⟩]

/-! ### Witnesses: the machine, the invariants, the starts -/

theorem test_witness_invariants : calm.quiet = true ∧ calm.sized = true ∧ calm.fits = true ∧ calm.mem.wf = true
    ∧ (⟨[.minuteTick], calm⟩ : State).wellFormed = true ∧ ∃ t, step ⟨[.minuteTick], calm⟩ = .next t :=
  ⟨by decide, by decide, by decide, by decide, by decide, _, rfl⟩

theorem test_witness_OnlyCompletedWritesChangeRecordMemory : calm.quiet = true ∧ Instr.minuteTick.wellFormed = true
    ∧ Instr.minuteTick ∉ [.queueWriteComplete, .tallyWriteComplete, .advanceVisible, .gapChargeVisible, .zoneRecordWriteDone,
      .clearing, .powerOnReset, .resetLineApplied, .powerLoss] := by decide

theorem test_witness_PartWithoutSupplyTakesNoStep : ({ calm with power := false } : Part).alive = false
    ∧ ({ calm with resetLine := true } : Part).alive = false ∧ Instr.wellFormed (.format 15) = true
    ∧ Instr.format 15 ∉ [.powerOnReset, .resetLineApplied, .powerLoss] := by decide

theorem test_witness_RestartAndFormat : calm.alive = true
    ∧ ({ calm with engine.startOwed := some .restart } : Part).engine.startOwed = some .restart
    ∧ ({ calm with engine.startOwed := some .format } : Part).engine.startOwed = some .format := by decide

/-- A part in a phase of its rebuild. -/
def inPhase (ph : Phase) : Part := { ({} : Part) with engine.mode := .rebuilding ph }

theorem test_witness_rebuild : [Phase.clearing, .loadConfig, .loadZones, .scanDirectory, .scanTallies].all (fun ph =>
      (inPhase ph).quiet && ({ inPhase ph with mem.signature := true } : Part).quiet
        && ({ inPhase ph with engine.startKind := .restart, zone.wallMinute := some 5 } : Part).quiet) = true
    ∧ (inPhase .loadConfig).mem.signature = false ∧ (inPhase .scanDirectory).mem.roots = []
    ∧ (inPhase .scanDirectory).mem.bags = [] ∧ (inPhase .scanDirectory).engine.roots = []
    ∧ (inPhase .scanDirectory).engine.bags = [] ∧ (inPhase .scanTallies).mem.tallies = []
    ∧ (inPhase .scanTallies).tally.lists = [] ∧ (inPhase .scanTallies).engine.startKind ≠ .restart := by decide

/-- A part whose slot 65,535 is LIVE and orphaned, and whose bag 4,095 is LIVE. -/
def owners : Part :=
  { inPhase .scanTallies with
    engine.slots := [(65535, .live)], tally.orphans := [65535], zone.lastAdvance := some 3
    engine.bags := [(4095, .live [(65535, key 255 4095 4095)] none 0)] }

def bagTally : Resident :=
  { owner := .bag 4095, cls := 7, acct := {}, zone := 31, entryMark := 0, members := some 2 }

def carrierTally : Resident :=
  { owner := .carrier (key 255 4095 4095), cls := 7, acct := {}, zone := 31, entryMark := 0 }

theorem test_witness_ScanTalliesReconciles : owners.slotAt 0 = .free ∧ owners.slotAt 65535 ≠ .free
    ∧ 65535 ∈ owners.tally.orphans ∧ owners.zone.wallMinute = none ∧ owners.zone.lastAdvance = some 3
    ∧ (Tally.sealed (.bag 0) 0 {}).isFollowing = false ∧ owners.bagAt (65536 - 65536) = .free
    ∧ owners.bagAt (65536 + 4095 - 65536) = .live [(65535, key 255 4095 4095)] none 0
    ∧ (∀ r : Resident, Tally.free ≠ .resident r) := by
  refine ⟨by decide, by decide, by decide, by decide, by decide, by decide, by decide, by decide, ?_⟩
  intro r
  simp

/-- A part about to scan a directory: consignor 255 and its lot 4,095, whose leaf block is as given, as are the stored records
and the tally of slot 65,535. -/
def scanning (leaf : Table LeafEntry) (records : Table StoredRecord) (tallies : Table Tally) : Part :=
  { inPhase .scanDirectory with
    mem := { roots := [(255, ⟨some 1023, none⟩)], tallies := tallies, records := records
             blocks := [(0, .leaf leaf), (1023, .branch [(4095, { leaf := some 0, live := 1 })])] } }

/-- The part with the root entries of the memory taken up, as SCAN_DIRECTORY does first. -/
def rooted (p : Part) : Part := { p with engine.roots := [(255, { branch := some 1023 })] }

def storedRec0 : Table StoredRecord := [(65535, ⟨rec0, checkWordOf 65535 rec0⟩)]

theorem test_witness_ScanDirectory :
    (∀ leaf ∈ [([(4095, .primary 65535)] : Table LeafEntry), [(0, .aliasOf 65535)]],
        let p := scanning leaf storedRec0 [(65535, .sealed (.carrier rec0.primary) 7 {})];
        p.quiet = true ∧ p.engine.slots = [] ∧ p.engine.roots = [] ∧ p.mem.settings.perms = [] ∧ p.mem.wf = true)
    ∧ (rooted (scanning [(4095, .primary 65535)] storedRec0 [])).leafEntries = [(rec0.primary, 65535)]
    ∧ (rooted (scanning [(0, .aliasOf 65535)] storedRec0 [])).leafEntries = [(key 255 4095 0, 65535)]
    ∧ key 255 4095 0 ≠ rec0.primary ∧ key 255 4095 0 ∉ rec0.aliases
    ∧ tfind storedRec0 65535 = some ⟨rec0, checkWordOf 65535 rec0⟩
    ∧ tget ([] : Table Tally) 65535 .free = .free
    ∧ tget [(65535, Tally.sealed (.carrier rec0.primary) 7 {})] 65535 .free ≠ .free :=
  ⟨by decide, by decide, by decide, by decide, by decide, rfl, by decide, by decide⟩

theorem test_scan_faults_a_named_slot_without_record :
    ∃ t, exec .scanDirectory (on (scanning [(4095, .primary 65535)] [] [])) = .next t
      ∧ t.part.slotAt 65535 = .faulted ∧ (rec0.primary, 65535) ∈ t.part.leafEntries := ⟨_, rfl, by decide, by decide⟩

/-- A part about to scan the tallies: tally 65,535 stands in zone 31 in class 7 with a budget of 100 minutes. -/
def reconciling (kind : StartKind) (a : Account) (meter : Nat) : Part :=
  { inPhase .scanTallies with
    engine.startKind := kind, engine.slots := [(65535, .live)], mem.tallies := [(65535, .resident { carrierTally with acct := a })]
    zone := { classes := List.replicate 7 {} ++ [{ budget := 100, warnMargin := 10 }], wallMinute := some 60
              zones := List.replicate 31 {} ++ [{ meters := List.replicate 8 meter, capacity := 1 }] } }

theorem test_witness_ScanTallies :
    (∀ k ∈ [StartKind.powerOn, .restart], ∀ m ∈ [0, 1439, 1440, 1599, 1600], let p := reconciling k {} m;
      p.quiet = true ∧ Table.wf .free p.mem.tallies = true ∧ p.tally.lists = [] ∧ (p.classAt 7).budget ≠ 0
        ∧ p.reconciled 65535 (.resident carrierTally) = .resident carrierTally ∧ p.meterAt 31 7 = m
        ∧ p.marksOf carrierTally = (1600, 1440))
    ∧ (reconciling .powerOn { expiredAt := some 3, warned := true } 0).quiet = true
    ∧ ((reconciling .powerOn {} 0).classAt 0).budget = 0
    ∧ ∀ n r, tget [(65535, Tally.resident carrierTally)] n .free = .resident r → r.zone < 32 ∧ r.cls < 8 := by
  refine ⟨by decide, by decide, by decide, ?_⟩
  intro n r h
  by_cases hn : n = 65535
  · subst hn
    cases h
    decide
  · simp [tget, tfind, Ne.symm hn] at h

/-! ### Witnesses: the zone unit -/

/-- A part whose zone 31 is as given. -/
def zoned (z : Zone) (p : Part := calm) : Part := { p with zone.zones := List.replicate 31 {} ++ [z] }

def withTimer (p : Part) (remaining : Nat) : Part :=
  { p with zone.timers := [none, none, none, some { zone := 31, remaining := remaining }] }

theorem test_witness_ZoneWork : 31 < (zoned {}).zone.zones.length
    ∧ (((zoned { kind := .floor }).staleRefresh 101 31).zoneAt 31).kind = .floor
    ∧ (let zn := ((zoned { kind := .dry }).staleRefresh 101 31).zoneAt 31;
        zn.kind = .dry ∧ zn.tripped = false ∧ zn.stale = false)
    ∧ (((zoned { kind := .dry, staleLimit := 1 }).staleRefresh 101 31).zoneAt 31).stale = true
    ∧ (((zoned { kind := .dry, tripLatch := true }).staleRefresh 101 31).zoneAt 31).tripped = true
    ∧ (((zoned { kind := .oven }).staleRefresh 101 31).zoneAt 31).bake = .idle
    ∧ (((zoned { kind := .oven, bake := .running 3 2880 }).staleRefresh 101 31).zoneAt 31).bake = .running 3 2880 := by
  decide

theorem test_witness_MinuteTick : calm.quiet = true ∧ calm.sized = true ∧ calm.zone.advance = none
    ∧ calm.engine.mode = .running ∧ (inPhase .loadZones).zone.wallMinute = none ∧ (inPhase .loadZones).quiet = true
    ∧ ({ calm with zone.wallMinute := some 4294967295, engine.mode := .awaitTime } : Part).quiet = true
    ∧ ({ calm with zone.advance := some ⟨100, false, true⟩, zone.owed := 255 } : Part).quiet = true := by decide

/-- The clock may pass its greatest value; a reading of minute 96 is stale at minute 101 with a limit of 5; a bake is due when
its timer stands at 1; a zone write that waits is fixed. -/
theorem test_witness_MinuteTick_work :
    (let p : Part := { calm with zone.wallMinute := some 4294967295 };
      p.quiet = true ∧ p.sized = true ∧ p.zone.advance = none ∧ p.engine.mode = .running)
    ∧ (let zn : Zone := { staleLimit := 5, pendStaleLimit := 5, lastReading := some 96 };
        (zoned zn).quiet = true ∧ (zn.applyPending 0).staleAt 101 = true ∧ (zn.applyPending 0).stale = false
          ∧ (zn.applyPending 0).staleAt 100 = false)
    ∧ (let p := withTimer (zoned { kind := .oven, bake := .running 3 60 }) 1;
        p.quiet = true ∧ p.sized = true ∧ (p.zoneAt 31).bake = .running 3 60)
    ∧ (let p : Part := { calm with zone.writes := [.zone 31 none] };
        p.quiet = true ∧ p.sized = true ∧ p.zone.writes = [.zone 31 none]) := by decide

/-- A bake in zone 31 whose timer 3 has reached 0; the advance waits for it. -/
def bakeOver : Part :=
  { withTimer (zoned { kind := .oven, bake := .running 3 1 }) 0 with zone.advance := some ⟨100, false, false⟩ }

theorem test_witness_BakeComplete : bakeOver.alive = true ∧ bakeOver.engine.startOwed = none ∧ bakeOver.sized = true
    ∧ (bakeOver.zoneAt 31).bake = .running 3 1 ∧ bakeOver.zone.timers[3]? = some (some ⟨31, 0⟩)
    ∧ (∀ z, z < 31 → bakeOver.bakeDueAt z = false) := by decide

/-- As `bakeOver`, with a fixed zone write that waited when the work began, one that came after, and timer 2 as given. -/
def bakesOver (other : Option BakeTimer) : Part :=
  { bakeOver with zone.writes := [.zone 0 (some {}), .zone 31 none], zone.timers := [none, none, other, some ⟨31, 0⟩]
                  zone.zones := List.replicate 30 {} ++ [{ kind := .oven, bake := .running 2 1 }, { kind := .oven, bake := .running 3 1 }] }

theorem test_witness_BakeComplete_advance :
    (let p := bakesOver (some ⟨30, 1⟩);
      p.alive = true ∧ p.sized = true ∧ p.zone.advance = some ⟨100, false, false⟩ ∧ (∀ z, z < 32 → z ≠ 31 → p.bakeDueAt z = false)
        ∧ p.zone.writes = [.zone 0 (some {})] ++ [.zone 31 none])
    ∧ (∀ i, ZoneWrite.zone 0 (some {}) ≠ .zone i none)
    ∧ (let p := bakesOver (some ⟨30, 0⟩); p.alive = true ∧ p.bakeDueAt 30 = true)
    ∧ ({ bakeOver with zone.advance := none } : Part).alive = true := by
  refine ⟨by decide, ?_, by decide, by decide⟩
  intro i
  simp

/-- A part whose record-memory port makes a given access. -/
def accessing (a : Access) (p : Part := calm) : Part := { p with path.inFlight := some a }

theorem test_witness_ZoneUnitWrites : (accessing (.advance {} false)).quiet = true
    ∧ (accessing (.advance {} true) { calm with engine.mode := .rebuilding .chargeGap }).quiet = true
    ∧ (accessing (.zone 31 {})).quiet = true
    ∧ (accessing (.advance {} false) { calm with zone.orders := [⟨31, 60⟩], zone.owed := 1 }).quiet = true
    ∧ (calm.listAt (31 * 8 + 7)).walk = none ∧ calm.zone.wallMinute = some 100 := by decide

theorem test_witness_ConditionLine : calm.quiet = true ∧ calm.sized = true ∧ calm.lines.getD 31 false = false
    ∧ (inPhase .loadConfig).zone.linesTaken = false
    ∧ (let zn : Zone := { lineMode := .level };
        zn.tripped = false ∧ ({ zn with lineLevel := true } : Zone).tripped = true)
    ∧ (let zn : Zone := { kind := .oven, bake := .running 3 60, lineMode := .edge };
        (withTimer (zoned zn) 10).quiet = true ∧ (withTimer (zoned zn) 10).sized = true ∧ zn.tripped = false
          ∧ ({ zn with lineLevel := true, tripLatch := true } : Zone).tripped = true
          ∧ (withTimer (zoned zn) 10).zone.timers[3]? = some (some ⟨31, 10⟩)) := by decide

/-- Tally 65,535 in zone 31, class 7, under a bake walk of that class. -/
def baked (minBake limit : Nat) (visit : Option (List Nat)) : Part :=
  { zoned { kind := .oven, bake := .completing 3 60 } with
    zone.classes := List.replicate 7 {} ++ [{ budget := 100, minBake := minBake, bakeLimit := limit }]
    tally := { table := [(65535, .resident carrierTally)], lists := (List.range 8).map fun c => (248 + c, { order := if c = 7 then [65535] else [], busy := true })
               bakeWalks := [{ zone := 31, minutes := 60, cls := 7, visit := visit }] } }

theorem test_witness_BakeWalk :
    (∀ lim ∈ [(61, 3), (60, 1), (60, 0)], let p := baked lim.1 lim.2 (some [65535, 65535]);
      p.quiet = true ∧ p.bakeWalkReady 31 = some { zone := 31, minutes := 60, cls := 7, visit := some [65535, 65535] }
        ∧ (p.listAt (listOf 31 7)).order ≠ [] ∧ p.residentAt 65535 = some carrierTally)
    ∧ (let p := baked 60 1 none;
        let q : Part := { p with tally.lists := (List.range 8).map fun c => (248 + c, { busy := true }) };
        q.quiet = true ∧ q.bakeWalkReady 31 = some { zone := 31, minutes := 60, cls := 7 } ∧ q.nextBakeClass 31 7 = none)
    ∧ (let p : Part := { baked 60 1 none with zone.reports := [⟨31, 1, 2, 3⟩], tally := {} };
        p.quiet = true ∧ p.zone.reports = [⟨31, 1, 2, 3⟩] ∧ (p.zoneAt 31).bake = .completing 3 60) := by decide

/-- A walk at its last tally, 65,535, of class `cls` of zone 31, with `others` the classes that have tallies besides. -/
def bakedLast (minBake limit : Nat) (a : Account) (others : List Nat) (spent renewed : List Nat := []) : Part :=
  let marks : Marks := { due := 2000, warn := 1900, seq := 0, prevLink := none, nextLink := none }
  let r : Resident := { carrierTally with cls := 5, acct := a, marks := some marks }
  { zoned { kind := .oven, bake := .completing 3 60 } with
    zone.classes := List.replicate 8 { budget := 100, warnMargin := 99, minBake := minBake, bakeLimit := limit }
    tally := { table := [(65533, .resident { r with acct := { warned := true, expiredAt := some 9 } }), (65534, .resident { r with acct := {} }), (65535, .resident r)]
               lists := (List.range 8).map fun c => (248 + c, { order := if c = 5 then renewed ++ [65535] ++ spent else if others.contains c then [7] else [], busy := true })
               bakeWalks := [{ zone := 31, minutes := 60, cls := 5, visit := some [65535], spent := spent, renewed := renewed }] } }

theorem test_witness_BakeWalk_last :
    (∀ lim ∈ [(61, 3), (60, 1), (60, 0)], ∀ a ∈ [({} : Account), { expiredAt := some 3, warned := true }],
      ∀ others ∈ [([] : List Nat), [7], [6]], let p := bakedLast lim.1 lim.2 a others [65533] [65534];
        p.quiet = true ∧ (p.bakeWalkReady 31).map (fun b => b.visit) = some (some [65535])
          ∧ (p.listAt (listOf 31 5)).order ≠ [] ∧ (p.residentAt 65535).map (fun r => r.acct) = some a ∧ p.holders 65535 = [])
    ∧ (let p := bakedLast 60 1 {} [] [65533] [65534];
        (∃ y, p.residentAt 65533 = some y ∧ y.acct.expiredAt ≠ none ∧ y.acct.warned = true)
          ∧ (∃ y k, p.residentAt 65534 = some y ∧ y.marks = some k ∧ y.acct.expiredAt = none ∧ y.acct.warned = false
            ∧ p.meterOf 253 < k.due ∧ p.meterOf 253 < k.warn)
          ∧ ([65533, 65534, 65535] : List Nat).Nodup ∧ (p.classAt 5).warnMargin < (p.classAt 5).budget
          ∧ (∀ k, 5 < k → k < 8 → (p.listAt (31 * 8 + k)).order = []))
    ∧ (let p := bakedLast 60 1 {} [7] [] [];
        (p.listAt (31 * 8 + 7)).order ≠ [] ∧ ∀ k, 5 < k → k < 7 → (p.listAt (31 * 8 + k)).order = []) := by
  refine ⟨by decide, ⟨⟨_, rfl, by decide⟩, ⟨_, _, rfl, rfl, by decide⟩, by decide, by decide, ?_⟩, by decide, ?_⟩
  · intro k h1 h2
    obtain rfl | rfl : k = 6 ∨ k = 7 := by omega
    all_goals rfl
  · intro k h1 h2
    obtain rfl : k = 6 := by omega
    rfl

theorem test_witness_Climate : performedOn calm (ask (.climate 31 (-400) 1000)) ∧ performedOn calm (ask (.climate 32 1250 0))
    ∧ (∀ b, b < 7 → (calm.zone.bands.getD b {}).admits 1251 1000 = false)
    ∧ (calm.zone.bands.getD 0 {}).admits 1250 1000 = true ∧ calm.zone.bands.length = 7 :=
  ⟨performed_of (by decide), performed_of (by decide), by decide, by decide, by decide⟩

/-- An oven in zone 31 whose bake is RUNNING on timer 3. -/
def baking : Part := withTimer (zoned { kind := .oven, bake := .running 3 60 }) 10

theorem test_witness_ZoneUnitWrites_offer :
    (let p : Part := { baking with zone.writes := [.zone 31 none] };
      p.zone.writes = .zone 31 none :: [] ∧ p.zone.advance = none ∧ (p.zoneAt 31).bake = .running 3 60
        ∧ p.zone.timers.getD 3 none = some ⟨31, 10⟩)
    ∧ (let p : Part := { baking with zone.writes := [.zone 31 none], zone.advance := some ⟨100, false, true⟩ };
        ∀ a, p.zone.advance = some a → a.issued = true)
    ∧ (let p : Part := { baking with zone.writes := [.zone 31 none], zone.advance := some ⟨100, false, false⟩ };
        p.zone.advance = some ⟨100, false, false⟩)
    ∧ (let p : Part := { baking with zone.writes := [.zone 31 (some {})] }; p.zone.writes = [.zone 31 (some {})]) := by
  refine ⟨by decide, ?_, rfl, rfl⟩
  intro p a h
  cases h
  rfl

theorem test_witness_TripClearTripAndBakeStop : performedOn calm (ask (.trip 32)) ∧ performedOn calm (ask (.trip 31))
    ∧ performedOn (zoned { tripLatch := true }) (ask (.trip 31)) ∧ performedOn baking (ask (.trip 31))
    ∧ performedOn calm (ask (.clearTrip 31)) ∧ performedOn baking (ask (.bakeStop 31)) ∧ performedOn calm (ask (.bakeStop 31))
    ∧ performedOn (zoned { kind := .oven }) (ask (.bakeStop 31))
    ∧ performedOn (zoned { kind := .oven, bake := .completing 3 60 }) (ask (.bakeStop 31))
    ∧ baking.zone.timers[3]? = some (some ⟨31, 10⟩) ∧ (baking.zoneAt 31).bake = .running 3 60 ∧ baking.sized = true
    ∧ baking.zone.advance = none :=
  ⟨performed_of (by decide), performed_of (by decide), performed_of (by decide), performed_of (by decide),
    performed_of (by decide), performed_of (by decide), performed_of (by decide), performed_of (by decide),
    performed_of (by decide), by decide, by decide, by decide, by decide⟩

theorem test_witness_BakeStart : performedOn calm (ask (.bakeStart 31 2881)) ∧ performedOn calm (ask (.bakeStart 31 2880))
    ∧ performedOn baking (ask (.bakeStart 31 1)) ∧ performedOn (zoned { kind := .oven, tripLatch := true }) (ask (.bakeStart 31 1))
    ∧ performedOn { zoned { kind := .oven } with zone.timers := List.replicate 4 (some ⟨0, 1⟩) } (ask (.bakeStart 31 1))
    ∧ performedOn { zoned { kind := .oven } with zone.timers := List.replicate 3 (some ⟨0, 1⟩) ++ [none] }
        (ask (.bakeStart 31 2880)) :=
  ⟨performed_of (by decide), performed_of (by decide), performed_of (by decide), performed_of (by decide),
    performed_of (by decide), performed_of (by decide)⟩

theorem test_witness_ZoneSet :
    performedOn calm (ask (.zoneSet 31 (some 2) (some 65535) (some 7) (some 255) (some 2)))
    ∧ calm.zoneSetRefusal 31 (some 2) (some 65535) (some 7) (some 255) (some 2) = none
    ∧ calm.zoneSetRefusal 31 (some 3) none none none none = some .badField
    ∧ baking.zoneSetRefusal 31 (some 0) none none none none = some .ovenBusy
    ∧ (let p : Part := { calm with tally.table := [(65535, .resident carrierTally)] };
        p.zoneSetRefusal 31 (some 1) none none none none = some .zoneOccupied)
    ∧ (let p : Part := { calm with zone.zones := List.replicate 8 { kind := .oven } ++ List.replicate 24 {} };
        p.ovens = 8 ∧ p.zoneSetRefusal 31 (some 2) none none none none = some .wrongZoneKind)
    ∧ (let p : Part := { calm with tally.occupancy := List.replicate 32 2 };
        p.zoneSetRefusal 31 none (some 1) none none none = some .zoneFull)
    ∧ (let zn : Zone := { lineLevel := true };
        (zoned zn).zoneSetRefusal 31 none none none none (some 1) = none ∧ zn.tripped = false
          ∧ ({ zn with lineMode := .level } : Zone).tripped = true ∧ ({ zn with lineMode := .level } : Zone).runningOven = false)
    ∧ (let zn : Zone := { kind := .oven, bake := .running 3 60, lineLevel := true };
        performedOn (withTimer (zoned zn) 10) (ask (.zoneSet 31 none none none none (some 1))) ∧ zn.tripped = false
          ∧ ({ zn with lineMode := .level } : Zone).tripped = true)
    ∧ calm.roomToWrite 1 = true :=
  ⟨performed_of (by decide), by decide, by decide, by decide, by decide, by decide, by decide, by decide,
    ⟨performed_of (by decide), by decide, by decide⟩, by decide⟩

/-! ### Witnesses: the tally unit -/

/-- Class 7 with a budget of 100 minutes, a warning margin of 10 and a credit of 1 minute for 2 dry ones. -/
def budgeted (p : Part := calm) : Part :=
  { p with zone.classes := List.replicate 7 {} ++ [{ budget := 100, warnMargin := 10, creditRatio := 2, creditCap := 60 }] }

/-- A part with tally 65,535 as given. -/
def talliedBy (t : Tally) (p : Part := budgeted) : Part := { p with tally.table := [(65535, t)] }

theorem test_witness_Remaining : (budgeted.classAt 7).budget = 100 ∧ (calm.classAt 7).budget = 0
    ∧ budgeted.exposure (.sealed (.bag 0) 7 { banked := 1600 }) = 1600
    ∧ budgeted.exposure (.sealed (.bag 0) 7 { banked := 1599 }) = 1599
    ∧ (let r : Resident := { carrierTally with acct := { banked := 1585 } };
        budgeted.exposure (.resident r) = 1585 ∧ r.acct.exhausted = false ∧ r.acct.expiredAt = none
          ∧ (budgeted.zoneAt r.zone).kind = .floor) := by decide

theorem test_witness_ReportedState : ({ carrierTally with acct := { exhausted := true } } : Resident).acct.exhausted = true
    ∧ ({ carrierTally with acct := { expiredAt := some 0 } } : Resident).acct.expiredAt ≠ none
    ∧ carrierTally.acct.exhausted = false ∧ carrierTally.acct.expiredAt = none
    ∧ (let z := baking.zone.zones.getD carrierTally.zone {}; z.kind = .oven ∧ z.bake ≠ .idle)
    ∧ (let z := (zoned { kind := .dry }).zone.zones.getD carrierTally.zone {}; z.kind = .dry)
    ∧ (let z := (zoned { kind := .oven }).zone.zones.getD carrierTally.zone {}; z.kind = .oven ∧ z.bake = .idle)
    ∧ ({ rec0 with link := some 4095 } : CarrierRecord).link = some 4095 ∧ rec0.link = none := by decide

/-- Tally 65,535 listed with a due mark of 1,600 and a warn mark of 1,440; the meter of its zone and class as given. -/
def listed (meter : Nat) (expiry : Option Nat := some 65535) : Part :=
  let r : Resident := { carrierTally with marks := some { due := 1600, warn := 1440, seq := 0, prevLink := none, nextLink := none } }
  { talliedBy (.resident r) (budgeted (zoned { meters := List.replicate 8 meter })) with
    tally.lists := [(255, { order := [65535], expiryCursor := expiry, warnCursor := some 65535 })], tally.marks := [255] }

theorem test_witness_ServeMark : (∀ m ∈ [1439, 1440, 1599, 1600], (listed m).quiet = true ∧ (listed m).nextMark = some 255
      ∧ (listed m).meterOf 255 = m ∧ (listed m).holders 65535 = [] ∧ ((listed m).residentAt 65535).isSome = true)
    ∧ ((listed 0).listAt 255).order = [65535] ∧ ((listed 0).listAt 255).warnCursor = some 65535
    ∧ ((listed 0).listAt 255).expiryCursor = some 65535 ∧ (listed 0).residentAt 0 = none := by decide

/-- A list of three tallies in proper form, with due marks of 100, 200 and 300 and warn marks of 90, 150 and 250: as it is given, 1
expired and the cursors on 2. -/
def threeListed (meter : Nat) (first : Account := { expiredAt := some 3, warned := true }) (second : Account := {})
    (cursor : Option Nat := some 2) : Part :=
  let r := fun (a : Account) (due warn : Nat) => Tally.resident { carrierTally with
    acct := a, marks := some { due := due, warn := warn, seq := 0, prevLink := none, nextLink := none } }
  { budgeted (zoned { meters := List.replicate 8 meter }) with
    tally := { table := [(1, r first 100 90), (2, r second 200 150), (3, r {} 300 250)]
               lists := [(255, { order := [1, 2, 3], expiryCursor := cursor, warnCursor := cursor })], marks := [255] } }

/-- The same list, its second tally exhausted by a bake that left its due mark above the meter (R86), behind a first that has been
inserted since (R36). -/
def exhaustedBehind (meter : Nat) : Part :=
  threeListed meter {} { exhausted := true, expiredAt := some 3, warned := true } (some 1)

theorem test_witness_ServeMark_list :
    (∀ m ∈ [149, 150, 200, 250, 300], let p := threeListed m;
      p.quiet = true ∧ p.nextMark = some 255 ∧ p.meterOf 255 = m ∧ (∀ n ∈ [1, 2, 3], p.holders n = []))
    ∧ (exhaustedBehind 200).quiet = true ∧ (exhaustedBehind 200).nextMark = some 255
    ∧ ∀ p ∈ [threeListed 300, exhaustedBehind 200],
        (p.listAt 255).order = [1, 2, 3] ∧ ([1, 2, 3] : List Nat).Nodup
          ∧ (∀ n ∈ [1, 2, 3], ∃ r k, p.residentAt n = some r ∧ r.marks = some k ∧ (r.acct.expiredAt ≠ none → r.acct.warned = true))
          ∧ (p.listAt 255).expiryCursor = ([1, 2, 3].find? fun n => (p.residentAt n).any fun r => r.acct.expiredAt.isNone)
          ∧ (p.listAt 255).warnCursor = ([1, 2, 3].find? fun n => (p.residentAt n).any fun r => !r.acct.warned)
          ∧ ([1, 2, 3].Pairwise fun a b => ∀ r r' k k', p.residentAt a = some r → p.residentAt b = some r' → r.marks = some k →
            r'.marks = some k' → r.acct.expiredAt = none → r'.acct.expiredAt = none → k.due ≤ k'.due ∧ k.warn ≤ k'.warn) := by
  refine ⟨by decide, by decide, by decide, ?_⟩
  intro p hp
  simp only [List.mem_cons, List.not_mem_nil, or_false] at hp
  rcases hp with rfl | rfl
  all_goals
    refine ⟨by decide, by decide, ?_, by decide, by decide, .cons ?_ (.cons ?_ (.cons (by simp) .nil))⟩
    · intro n hn
      simp only [List.mem_cons, List.not_mem_nil, or_false] at hn
      rcases hn with rfl | rfl | rfl
      all_goals exact ⟨_, _, rfl, rfl, by decide⟩
    all_goals
      intro b hb r r' k k' h1 h2 h3 h4
      simp only [List.mem_cons, List.not_mem_nil, or_false] at hb
      try rcases hb with rfl | rfl
      all_goals
        try subst hb
        cases h1; cases h2; cases h3; cases h4
        decide

/-- R33: past the tally that expires, both cursors pass the exhausted one too, which keeps its expired-at and gives no second
EXPIRED notice when the meter reaches its due mark. -/
theorem test_serveMark_passes_exhausted : ∀ m ∈ [100, 200],
    (match exec .serveMark (on (exhaustedBehind m)) with
      | .next t => some ((t.part.listAt 255).expiryCursor, (t.part.listAt 255).warnCursor,
          (t.part.residentAt 2).bind (·.acct.expiredAt), (t.part.portAt 0).noticeNumber)
      | _ => none) = some (some 3, some 3, some 3, 1) := by decide

/-- As `listed`, with no list marked. -/
def unmarked (meter : Nat) : Part := { listed meter with tally.marks := [] }

/-- A part whose one tally command is `op`. -/
def commanded (op : TallyOp) (p : Part) : Part := { p with tally.queue := [cmd op] }

/-- `Part.Takes` as a check. -/
def takesNow (p : Part) (d : TallyCmd) : Bool :=
  p.quiet && decide (p.nextCommand = some d) && decide (p.opRefusal d.op = none)
    && p.tally.queue.all (fun e => e.id != d.id || e == d) && p.tally.writes.all (fun w => w.cmd != some d.id)

theorem takes_of {p : Part} {d : TallyCmd} (h : takesNow p d = true) : p.Takes d := by
  simp only [takesNow, Bool.and_eq_true, decide_eq_true_eq, List.all_eq_true, Bool.or_eq_true, bne_iff_ne, ne_eq,
    beq_iff_eq] at h
  obtain ⟨⟨⟨⟨h1, h2⟩, h3⟩, h4⟩, h5⟩ := h
  refine ⟨h1, h2, h3, fun e he hi => ?_, h5⟩
  rcases h4 e he with h | h
  · exact absurd hi h
  · exact h

/-- The tally unit takes `op` next. -/
def taken (op : TallyOp) (p : Part) : Prop := (commanded op p).Takes (cmd op)

theorem taken_of {op : TallyOp} {p : Part} (h : takesNow (commanded op p) (cmd op) = true) : taken op p := takes_of h

/-- A part where context 15 waits for its tally command `op` with request `r`. -/
def awaited (r : Request) (op : TallyOp) (p : Part) : Part :=
  { commanded op p with engine.contexts := [(15, waiter r)] }

theorem awaits_of {p : Part} {x : Context} (h : (decide (p.ctx? 15 = some x) && decide (x.stage ≠ .answered)
      && decide (x.toIssue = [] ∧ x.outstanding = 1) && p.noneWaits && !p.hasHeld 15 && !p.flushes 15) = true) :
    p.Awaits 15 x := by
  simp only [Bool.and_eq_true, decide_eq_true_eq, Bool.not_eq_true'] at h
  exact ⟨h.1.1.1.1.1, h.1.1.1.1.2, h.1.1.1.2.1, h.1.1.1.2.2, h.1.1.2, h.1.2, h.2⟩

def sealed_ : Tally := .sealed (.carrier (key 255 4095 4095)) 7 {}

theorem test_witness_RefusedTallyCommand :
    (let p := awaited (.openKeys 31 [key 255 4095 4095]) (.arm 65535 31) budgeted;
      p.quiet = true ∧ p.nextCommand = some (cmd (.arm 65535 31)) ∧ p.opRefusal (.arm 65535 31) = some .wrongState
        ∧ p.Awaits 15 (waiter (.openKeys 31 [key 255 4095 4095])))
    ∧ (let p : Part := { talliedBy sealed_ (zoned { capacity := 1 }) with tally.occupancy := List.replicate 32 1 };
        (p.zoneAt 31).capacity ≠ 0 ∧ (p.zoneAt 31).capacity < p.tally.occupancy.getD 31 0 + 1
          ∧ p.tallyAt 65535 = sealed_ ∧ p.opRefusal (.arm 65535 31) = some .zoneFull)
    ∧ (talliedBy sealed_ baking).opRefusal (.arm 65535 31) = some .ovenBusy
    ∧ (talliedBy (.resident { carrierTally with zone := 30 }) baking).opRefusal (.move 65535 31) = some .ovenBusy
    ∧ (talliedBy (.resident { carrierTally with zone := 30 })).opRefusal (.move 65535 31) = none
    ∧ (talliedBy (.resident carrierTally) baking).opRefusal (.move 65535 31) = none
    ∧ (talliedBy sealed_).opRefusal (.arm 65535 32) = some .badField :=
  ⟨⟨by decide, by decide, by decide, awaits_of (by decide)⟩, by decide, by decide, by decide, by decide, by decide, by decide⟩

theorem test_witness_CreateAndFree : taken (.create 65535 (key 255 4095 4095) 7 1048575 15) budgeted
    ∧ taken (.free 65535) (talliedBy sealed_) ∧ taken (.free 65535) (unmarked 0) :=
  ⟨taken_of (by decide), taken_of (by decide), taken_of (by decide)⟩

theorem test_witness_BankingCreditAndMarks : (budgeted.zoneAt 31).kind ≠ .dry
    ∧ ((budgeted (zoned { kind := .dry, dry := 9 })).zoneAt 31).kind = .dry
    ∧ ({ carrierTally with acct := { banked := 1600 } } : Resident).acct.banked = (budgeted.classAt 7).budget * 16
    ∧ ({ carrierTally with acct := { banked := 1599 } } : Resident).acct.banked < (budgeted.classAt 7).budget * 16
    ∧ ({ carrierTally with acct := { expiredAt := some 0 } } : Resident).acct.expiredAt ≠ none := by decide

theorem test_witness_ArmMoveAndSeal : taken (.arm 65535 31) (talliedBy sealed_)
    ∧ taken (.arm 65535 31) (talliedBy sealed_ calm) ∧ (calm.classAt 7).budget = 0
    ∧ taken (.move 65535 30) (unmarked 1600) ∧ taken (.move 65535 31) (unmarked 1600) ∧ taken (.seal 65535) (unmarked 1600)
    ∧ taken (.move 69631 31) { budgeted with tally.table := [(69631, .resident { bagTally with zone := 30 })] } :=
  ⟨taken_of (by decide), taken_of (by decide), by decide, taken_of (by decide), taken_of (by decide), taken_of (by decide),
    taken_of (by decide)⟩

/-- A bag tally with two members, 65,534 and 65,535. -/
def bagged : Part :=
  { budgeted with tally.table := [(65534, .following (.carrier (key 255 4095 4094)) 7),
      (65535, .following (.carrier (key 255 4095 4095)) 7), (69631, .resident bagTally)] }

theorem test_witness_JoinSplitAndLeave :
    taken (.join 69631 [65534, 65535] 31) { budgeted with tally.table := [(65534, sealed_), (65535, sealed_)] }
    ∧ taken (.split 69631 65535 none) bagged ∧ taken (.split 69631 65535 (some 31)) bagged
    ∧ taken (.split 69631 65535 (some 0)) bagged ∧ taken (.leave 65535 69631) bagged :=
  ⟨taken_of (by decide), taken_of (by decide), taken_of (by decide), taken_of (by decide), taken_of (by decide)⟩

/-- `READ` of a tally is what a request waits for. -/
def readFor (r : Request) (t : Tally) (p : Part := budgeted) : Part := awaited r (.read 65535) (talliedBy t p)

/-- CHECKOUT waits with the working copy of its carrier. -/
def checking (t : Tally) (p : Part := budgeted) : Part :=
  { readFor (.checkout rec0.primary 255 1) t p with
    engine.contexts := [(15, { waiter (.checkout rec0.primary 255 1) with working := [(65535, rec0)] })] }

theorem test_witness_Read :
    (readFor (.verify rec0.primary 255 1) (.resident carrierTally)).Takes (cmd (.read 65535))
    ∧ (readFor (.verify rec0.primary 255 1) (.resident carrierTally)).Awaits 15 (waiter (.verify rec0.primary 255 1))
    ∧ (∀ t ∈ [sealed_, .resident carrierTally, .resident { carrierTally with acct := { exhausted := true } },
        .resident { carrierTally with acct := { expiredAt := some 0 } }], takesNow (checking t) (cmd (.read 65535)) = true)
    ∧ takesNow (checking (.resident carrierTally) (budgeted (zoned { kind := .dry }))) (cmd (.read 65535)) = true
    ∧ (checking sealed_).Awaits 15 { waiter (.checkout rec0.primary 255 1) with working := [(65535, rec0)] }
    ∧ (checking sealed_).roomToWrite 1 = true ∧ (checking sealed_).freeCheckout = some 0 :=
  ⟨takes_of (by decide), awaits_of (by decide), by decide, by decide, awaits_of (by decide), by decide, by decide⟩

/-- A LOOKUP of context 15 waits for the READ of a tally; its key's leaf entry had the form. -/
def lookingUp (form : KeyForm) : Context :=
  { waiter (.lookup rec0.primary) with
    keys := [⟨rec0.primary, .entry 255 65535 0 form⟩], working := [(65535, { rec0 with link := some 4095 })] }

theorem test_witness_Read_lookup :
    ∀ form ∈ [KeyForm.primary, .aliased],
      takesNow { readFor (.lookup rec0.primary) sealed_ with engine.contexts := [(15, lookingUp form)] } (cmd (.read 65535)) = true
        ∧ (lookingUp form).resolutionOf rec0.primary = .entry 255 65535 0 form
        ∧ (lookingUp form).working.head? = some (65535, { rec0 with link := some 4095 }) := by decide

/-- The answer of LOOKUP tells the form of the leaf entry, whatever key the record has for its primary key. -/
theorem test_lookup_tells_the_form_of_the_leaf_entry :
    (calm.lookupBody (lookingUp .primary) rec0.primary { rec0 with primary := key 0 0 0 } sealed_).take 2 = [⟨1, 0⟩, ⟨1, 0⟩]
    ∧ (calm.lookupBody (lookingUp .aliased) rec0.primary rec0 sealed_).take 2 = [⟨1, 0⟩, ⟨1, 1⟩] := ⟨rfl, rfl⟩

/-- A VERIFY of context 15 (port 1, station 255, need 50) waits for the READ of a tally, with the hold and the holder read. -/
def verifying (t : Tally) (hold : Option (HoldLevel × Nat) := none) (holder : Option Checkout := none) (p : Part := budgeted) : Part :=
  { readFor (.verify rec0.primary 255 50) t p with
    engine.contexts := [(15, { waiter (.verify rec0.primary 255 50) with holdRead := hold, holderRead := holder })] }

/-- One VERIFY for each of R148's reasons in order, and for GO; 800 grains are the last exposure with 50 minutes left. -/
theorem test_witness_Read_verify :
    (∀ p ∈ [verifying (.resident { carrierTally with acct := { exhausted := true, expiredAt := some 0 } }),
        verifying (.resident { carrierTally with acct := { expiredAt := some 0 } }) (some (.lot, 4)),
        verifying (.resident carrierTally) (some (.lot, 4)), verifying sealed_,
        verifying (.resident carrierTally) none none (budgeted (zoned { kind := .dry })),
        verifying (.resident carrierTally) none (some ⟨65535, rec0.primary, 1, 254, 3⟩),
        verifying (.resident carrierTally) none (some ⟨65535, rec0.primary, 2, 255, 3⟩),
        verifying (.resident { carrierTally with acct := { banked := 801 } }) none (some ⟨65535, rec0.primary, 1, 255, 3⟩),
        verifying (.resident { carrierTally with acct := { banked := 800 } })],
      takesNow p (cmd (.read 65535)) = true ∧ (p.ctx? 15).isSome = true ∧ p.noneWaits = true)
    ∧ budgeted.remaining (.resident { carrierTally with acct := { banked := 801 } }) = some 49
    ∧ budgeted.remaining (.resident { carrierTally with acct := { banked := 800 } }) = some 50
    ∧ (budgeted.zoneAt 31).kind = .floor ∧ ((budgeted (zoned { kind := .dry })).zoneAt 31).kind = .dry := by decide

theorem test_witness_ListDue : taken (.listDue 31 7 65535 32) (unmarked 1600)
    ∧ (let d : DueList := { order := [65535], walk := some (.listDue 7 0 32 [65535] {}) };
        let p : Part := { awaited (.listDue 31 7 0 32) (.listDue 31 7 0 32) (listed 0) with
          tally.lists := [(255, d)], tally.marks := [], tally.queue := [{ cmd (.listDue 31 7 0 32) with taken := true }] };
        p.quiet = true ∧ (p.listAt 255).walk = some (.listDue 7 0 32 [65535] {}) ∧ (p.residentAt 65535).isSome = true
          ∧ p.Awaits 15 (waiter (.listDue 31 7 0 32))
          ∧ p.tally.queue.find? (fun c => c.id == 7) = some { cmd (.listDue 31 7 0 32) with taken := true })
    ∧ (let d : DueList := { order := [65535, 0], walk := some (.listDue 7 1 32 [65535, 0] {}) };
        let p : Part := { listed 0 with tally.lists := [(255, d)], tally.marks := [] };
        p.quiet = true ∧ (p.listAt 255).walk = some (.listDue 7 1 32 [65535, 0] {}) ∧ (p.residentAt 65535).isSome = true) :=
  ⟨taken_of (by decide), ⟨by decide, by decide, by decide, awaits_of (by decide), by decide⟩, by decide⟩

/-- An insertion walk of tally 0 that looks at tally 65,535 (due mark 1,600). -/
def inserting (order : List Nat) (due meter : Nat) (pos : Option Nat) (a : Account := {}) : Part :=
  let p := listed 0
  { p with
    tally.table := (0, Tally.resident { carrierTally with acct := a }) :: p.tally.table
    tally.lists := [(255, { order := order, walk := some (.insertion 7 0 meter due (due - 160) pos) })], tally.marks := [] }

theorem test_witness_InsertionWalk :
    (let p := inserting [1, 65535] 1599 0 (some 65535);
      p.quiet = true ∧ p.dueOf 65535 = 1600 ∧ prevIn 65535 (p.listAt 255).order = some 1)
    ∧ (let p := inserting [1, 65535] 1600 0 (some 65535); p.quiet = true ∧ p.dueOf 65535 ≤ 1600)
    ∧ (let p := inserting [65535] 1599 0 (some 65535); p.quiet = true ∧ prevIn 65535 (p.listAt 255).order = none)
    ∧ (∀ m ∈ [1439, 1440, 1599, 1600], (inserting [] 1600 m none).quiet = true
        ∧ ((inserting [] 1600 m none).residentAt 0).isSome = true ∧ (inserting [] 1600 m none).holders 0 = [])
    ∧ (inserting [] 1600 0 none { expiredAt := some 9 }).quiet = true := by decide

/-- A tally write of command 7 in flight. -/
def writing (op : TallyOp) (r : Request) (rest : List TallyWrite) : Part :=
  { awaited r op (talliedBy sealed_) with
    path.inFlight := some .tally, tally.queue := [{ cmd op with taken := true, finished := true }]
    tally.writes := { n := 65535, tally := sealed_, cmd := some 7 } :: rest }

theorem test_witness_TallyWritesAndCommands :
    (let p := writing (.create 65535 rec0.primary 7 0 0) (.enroll rec0.primary 7 none none) [];
      p.quiet = true ∧ p.path.inFlight = some .tally
        ∧ p.tally.queue.find? (fun d => d.id == 7)
          = some { cmd (.create 65535 rec0.primary 7 0 0) with taken := true, finished := true }
        ∧ p.Awaits 15 (waiter (.enroll rec0.primary 7 none none)))
    ∧ (writing (.arm 65535 31) (.openKeys 31 [rec0.primary]) []).Awaits 15 (waiter (.openKeys 31 [rec0.primary]))
    ∧ (writing (.arm 65535 31) (.openKeys 31 [rec0.primary]) [{ n := 0, tally := .free, cmd := some 7 }]).quiet = true
    ∧ (let x : Context := { waiter (.seal rec0.primary) with toIssue := [.free 65535], outstanding := 0, stage := .performed };
        let p : Part := { calm with engine.contexts := [(15, x)] };
        p.quiet = true ∧ p.nextIssuer = some 15 ∧ p.ctx? 15 = some x ∧ p.olderWaits 15 x = false
          ∧ ({ p with tally.queue := List.replicate 32 (cmd (.read 0)) } : Part).quiet = true) :=
  ⟨⟨by decide, by decide, by decide, awaits_of (by decide)⟩, awaits_of (by decide), by decide, by decide⟩

/-- The last write of a completed command `op` of context 15, which holds the records of two members of bag 4,095. -/
def completing (op : TallyOp) (r : Request) (members : List (Nat × Key)) (reply : Option Reply := none)
    (toIssue : List TallyOp := []) (more : List TallyCmd := []) : Part :=
  { writing op r [] with
    tally.queue := { cmd op with taken := true, finished := true, credit := some 32 } :: more, tally.nextCmd := 8
    engine.bags := [(4095, if members = [] then .closing none 0 else .live members (some 255) 0)]
    engine.slots := [(65535, .retiring)]
    engine.contexts := [(15, { waiter r with
      working := [(65534, { primary := key 255 4095 4094 }), (65535, { rec0 with link := some 4095 })], reply := reply
      toIssue := toIssue, commands := [{ id := 7, op := op }] })] }

def oneMember : List (Nat × Key) := [(65535, rec0.primary)]
def twoMembers : List (Nat × Key) := [(65534, key 255 4095 4094), (65535, rec0.primary)]

/-- `Part.Awaits` and the completion of command 7 as a check. -/
def completesNow (p : Part) : Bool :=
  match p.ctx? 15 with
  | none => false
  | some x => p.quiet && decide (p.path.inFlight = some .tally) && p.noneWaits && !p.hasHeld 15 && !p.flushes 15
      && decide (x.stage ≠ .answered ∧ x.toIssue = [] ∧ x.outstanding = 1)
      && ((p.tally.queue.find? fun d => d.id == 7).any fun d => d.finished) && p.roomToWrite 3

theorem test_witness_TallyWrites_completions :
    (∀ p ∈ [completing (.join 69631 [65534, 65535] 31) (.openKeys 31 [key 255 4095 4094, rec0.primary]) twoMembers,
        completing (.move 65535 31) (.move rec0.primary 31 none) [],
        completing (.move 69631 31) (.moveGroup 4095 31) twoMembers,
        completing (.seal 65535) (.seal rec0.primary) [],
        completing (.split 69631 65535 (some 31)) (.move rec0.primary 31 none) twoMembers,
        completing (.split 69631 65535 (some 31)) (.move rec0.primary 31 none) oneMember,
        completing (.split 69631 65535 none) (.seal rec0.primary) twoMembers,
        completing (.split 69631 65535 none) (.seal rec0.primary) oneMember,
        completing (.leave 65535 69631) (.retire rec0.primary 0 none) twoMembers,
        completing (.leave 65535 69631) (.retire rec0.primary 0 none) oneMember,
        completing (.leave 65535 69631) (.forceRetire 15 65535) twoMembers,
        completing (.leave 65535 69631) (.forceRetire 15 65535) oneMember,
        completing (.free 65535) (.retire rec0.primary 0 none) [], completing (.free 65535) (.forceRetire 15 65535) [],
        completing (.free 69631) (.move rec0.primary 31 none) [] (some ⟨.ok, []⟩),
        completing (.free 69631) (.seal rec0.primary) [] (some ⟨.ok, []⟩),
        completing (.free 69631) (.retire rec0.primary 0 none) [] (some ⟨.ok, []⟩),
        completing (.free 69631) (.moveGroup 4095 31) [] (some ⟨.ok, []⟩),
        completing (.free 69631) (.forceRetire 15 65535) [] (some ⟨.ok, []⟩)], completesNow p = true)
    ∧ twoMembers.filter (fun m => m.1 != 65535) ≠ [] ∧ oneMember.filter (fun m => m.1 != 65535) = []
    ∧ (∃ m ∈ twoMembers, m.1 ≠ 65535)
    ∧ (completing (.free 65535) (.retire rec0.primary 0 none) []).slotAt 65535 = .retiring
    ∧ (completing (.free 65535) (.retire rec0.primary 0 none) []).path.missFile = []
    ∧ (completing (.split 69631 65535 none) (.moveGroup 4095 31) twoMembers none [.move 69631 31]).quiet = true := by decide

/-- The queue is full, and context 3, performed before context 4, waits with it for an entry. -/
theorem test_witness_TallyWrites_full_queue :
    let w : Nat → Context := fun seq => { waiter (.listDue 31 7 0 32) with
      toIssue := [.read seq], outstanding := 0, performSeq := seq, stage := .performed };
    let p := completing (.seal 65535) (.seal rec0.primary) [] none []
      ((List.range 31).map fun i => { id := 100 + i, ctx := 5, op := .read 0, taken := true });
    let q : Part := { p with engine.contexts := [(3, w 1), (4, w 2)] ++ p.engine.contexts };
    q.quiet = true ∧ q.tally.queue.length = 32 ∧ q.ctx? 3 = some (w 1) ∧ (w 1).active = true
      ∧ ∀ e ∈ q.engine.contexts, e.2.active = true → e.2.toIssue ≠ [] → e.1 ≠ 3 → (w 1).performSeq < e.2.performSeq := by
  decide

/-! ### Witnesses: the request engine and the record path -/

/-- A queued write of a slot's record, and one of a bag record. -/
def recordWrite (slot : Nat) : QWrite := ⟨none, .record slot ⟨rec0, 0⟩⟩
def bagWrite : QWrite := ⟨some 15, .bag 4095 .free⟩

def queued (l held : List QWrite) (p : Part := calm) : Part := { p with path.queue := l, path.held := held }

theorem test_witness_WriteJoins : (∀ v ∈ (queued [bagWrite, recordWrite 0] []).path.queue, v.body.recordSlot? ≠ some 65535)
    ∧ 8 ≤ (queued (List.replicate 8 bagWrite) []).path.queue.length
    ∧ (queued (List.replicate 7 bagWrite) [bagWrite]).path.held ≠ []
    ∧ (queued [bagWrite, recordWrite 65535, recordWrite 0] []).path.queue = [bagWrite] ++ recordWrite 65535 :: [recordWrite 0]
    ∧ (recordWrite 65535).body.recordSlot? = some 65535
    ∧ (∀ u ∈ [recordWrite 0] ++ (queued [] []).path.held, u.body.recordSlot? = some 0) := by decide

/-- An exempt range that covers every key. -/
def anyRange : ExemptRange := { enabled := true, mask := 0xFFFFF#20 }

/-- A part whose port 3 has accepted one request, the oldest. -/
def accepted (r : Request) (p : Part := calm) : Part :=
  { p with port.ports := modifyAt p.port.ports 3 fun q => { q with requests := [⟨9, 0, r⟩], outstanding := 1 } }

theorem test_witness_RequestTaken : (∀ p ∈ [accepted .status, accepted .status (inPhase .clearing),
      accepted (.lookup rec0.primary), accepted (.lookup rec0.primary) cached,
      accepted (.lookup rec0.primary) { calm with engine.exempt := [anyRange] }],
        p.quiet = true ∧ p.freeContext = some 0 ∧ (p.nextRequest.map (·.1)) = some 3)
    ∧ modeRefusal .running (requestCode .status) = none
    ∧ modeRefusal (.rebuilding .clearing) (requestCode (.lookup rec0.primary)) = some .notReady
    ∧ (let x : Context := { port := 3, tag := 9, arrival := 0, request := .lookup rec0.primary };
        calm.gateOpen 0 x = true
          ∧ (let p : Part := { calm with engine.contexts := [(5, idler (.retire rec0.primary 0 none))] };
              p.gateOpen 0 { x with arrival := 4 } = false ∧ (accepted (.lookup rec0.primary) p).quiet = true)
          ∧ ({ calm with engine.releaseAll := some { ctx := 15, port := none, station := none } } : Part).quiet = true)
    ∧ exemptOutcome [anyRange] (key 255 4095 4095) = some (false, 0)
    ∧ exemptOutcome calm.engine.exempt rec0.primary = none
    ∧ (cached.probeHit rec0.primary).isSome = true ∧ calm.probeHit rec0.primary = none ∧ calm.freeEntry = some 0
    ∧ ({ calm with path.missFile := (List.range 8).map fun i =>
        (i, { key := key 0 0 i, stage := .branch, slot := none, epoch := 0, parked := [] }) } : Part).freeEntry = none := by
  decide

/-- The oldest request is port 3's; contexts 0 to 14 are taken, so it goes to the last, and port 0's waits behind it. -/
theorem test_witness_RequestTaken_order :
    let p : Part := { calm with
      engine.contexts := (List.range 15).map fun i => (i, { idler .status with arrival := i })
      port.ports := [{ requests := [⟨1, 21, .status⟩] }, {}, {}, { requests := [⟨9, 20, .lookup rec0.primary⟩] }] };
    p.quiet = true ∧ p.sized = true ∧ p.ctx? 15 = none ∧ (∀ k, k < 15 → p.ctx? k ≠ none)
      ∧ (p.portAt 3).requests = [⟨9, 20, .lookup rec0.primary⟩]
      ∧ (∀ j, j < 4 → j ≠ 3 → ∀ r ∈ (p.portAt j).requests, 20 < r.arrival)
      ∧ p.hasHeld 0 = false ∧ p.flushes 0 = false := by decide

/-- The clauses of REQUEST_TAKEN: modes that do not serve the request, a closed gate, several keys, a group, a RELABEL. -/
theorem test_witness_RequestTaken_forms :
    (∀ p ∈ [accepted (.retire rec0.primary 0 none) { calm with engine.mode := .readOnly },
        accepted (.lookup rec0.primary) { calm with engine.mode := .awaitTime },
        accepted (.timeSet 5) { calm with engine.mode := .unformatted }, accepted .format (inPhase .scanTallies),
        accepted (.openKeys 31 [rec0.primary, key 255 4095 0, rec0.primary]) cached,
        accepted (.moveGroup 4095 31) { cached with engine.bags := [(4095, .live twoMembers none 0)] },
        accepted (.relabel rec0.primary (key 255 4095 0) none) cached,
        accepted (.relabel rec0.primary rec0.primary none) cached,
        accepted (.relabel rec0.primary (key 255 4095 0) none) { cached with engine.exempt := [anyRange] },
        accepted (.lookup rec0.primary) { cached with
          path.flush := some { consignor := 255, lot := some 4095, epoch := 1, nextSet := 0, ctx := 14 } },
        accepted (.lookup rec0.primary) { calm with engine.roots := [(255, { branch := some 1023 })] }],
      p.quiet = true ∧ p.sized = true ∧ p.ctx? 0 = none)
    ∧ requestCode (.retire rec0.primary 0 none) ∈ [1, 4, 5, 6, 7, 8, 9, 10, 11, 15, 16, 20, 34]
    ∧ requestCode (.lookup rec0.primary) ∉ [22, 23, 24, 25, 26, 27, 28, 29, 30, 31]
    ∧ requestCode (.timeSet 5) ∉ [22, 36] ∧ requestCode .format ≠ 22
    ∧ (let e := idler (.relabel (key 255 4095 0) rec0.primary none);
        let p : Part := accepted (.lookup rec0.primary) { calm with
          engine.contexts := [(5, e)], port.ports := List.replicate 4 {} };
        e.stage ≠ .answered ∧ (5, e) ∈ p.engine.contexts ∧ rec0.primary ∈ requestKeys e.request
          ∧ rec0.primary ∈ requestKeys (.lookup rec0.primary))
    ∧ ((rec0.primary.consignor ++ rec0.primary.lot) ^^^ (anyRange.consignor ++ anyRange.lot)) &&& ~~~ anyRange.mask = 0#20
    ∧ 255 / 4 = rec0.primary.serial.toNat % 64 := by decide

/-- Context 15 is the oldest that has to probe again for `rec0`'s key. -/
def owing (p : Part := calm) : Part :=
  { p with path.owedProbes := [(15, rec0.primary)], path.missWait := [15]
           engine.contexts := [(15, { ask (.lookup rec0.primary) [⟨rec0.primary, .missWait⟩] with stage := .resolving })] }

/-- Context 15 waits with two keys; one of them goes on waiting, so it keeps its place. -/
theorem test_witness_MissWaitProbe_two_keys :
    let p : Part := { cached with
      path.owedProbes := [(15, rec0.primary), (15, key 0 0 0)], path.missWait := [15]
      engine.contexts := [(15, ask (.openKeys 31 [rec0.primary, key 0 0 0]) [⟨rec0.primary, .missWait⟩, ⟨key 0 0 0, .missWait⟩])] };
    p.alive = true ∧ p.engine.startOwed = none ∧ (p.probeHit rec0.primary).isSome = true ∧ 15 ∈ p.path.missWait
      ∧ ((p.ctx? 15).map fun x => x.waitingKeys) = some [rec0.primary, key 0 0 0]
      ∧ ({ p with path.cache := [], path.missFile := (List.range 8).map fun i =>
          (i, { key := key 0 0 (i + 1), stage := .branch, slot := none, epoch := 0, parked := [] }) } : Part).freeEntry = none := by
  decide

def walkOf (stage : WalkStage) (slot : Option Nat := none) : Walk :=
  { key := rec0.primary, stage := stage, slot := slot, epoch := 0, parked := [15] }

theorem test_witness_MissWaitProbe : owing.alive = true ∧ owing.engine.startOwed = none ∧ (owing.ctx? 15).isSome = true
    ∧ ((owing cached).probeHit rec0.primary).isSome = true ∧ owing.probeHit rec0.primary = none
    ∧ (owing.path.missFile.find? fun e => e.2.key == rec0.primary) = none ∧ owing.freeEntry = some 0
    ∧ (({ owing with path.missFile := [(7, { walkOf .branch with parked := [] })] } : Part).path.missFile.find? fun e =>
        e.2.key == rec0.primary) = some (7, { walkOf .branch with parked := [] })
    ∧ (({ owing with engine.roots := [(255, { branch := some 1023 })] } : Part).rootAt 255).branch = some 1023 := by decide

/-- Miss file entry 7 walks for `rec0`'s key, and its read of `target` is being made. -/
def walking (w : Walk) (target : ReadTarget) (p : Part := calm) : Part :=
  { p with path.missFile := [(7, w)], path.inFlight := some (.read ⟨.walk 7, target, true⟩)
           engine.contexts := [(15, ask (.lookup rec0.primary) [⟨rec0.primary, .fetching⟩])] }

theorem reads_of {p : Part} {client : ReadClient} {t : ReadTarget}
    (h : (decide (p.path.returned.find? (fun r => r.read.client == client) = none)
      && decide (p.path.inFlight = some (.read ⟨client, t, true⟩))) = true) : p.reads client t := by
  simp only [Bool.and_eq_true, decide_eq_true_eq] at h
  exact h

theorem test_witness_Walk :
    (walking (walkOf .branch) (.branch 1023 4095)).reads (.walk 7) (.branch 1023 4095)
    ∧ (walking (walkOf .branch) (.branch 1023 4095)).quiet = true
    ∧ (walking (walkOf .branch) (.branch 1023 4095)).mem.value (.branch 1023 4095) = .branch {}
    ∧ ({ calm with mem.blocks := [(1023, .branch [(4095, { leaf := some 0 })])] } : Part).mem.value (.branch 1023 4095)
        = .branch { leaf := some 0 }
    ∧ (walking (walkOf .leaf) (.leaf 0 4095)).mem.value (.leaf 0 4095) = .leaf .empty
    ∧ ({ calm with mem.blocks := [(0, .leaf [(4095, .primary 65535)])] } : Part).mem.value (.leaf 0 4095)
        = .leaf (.primary 65535)
    ∧ (∀ st ∈ [SlotState.live, .faulted, .retiring, .free, .withdrawn],
        ({ walking (walkOf .leaf) (.leaf 0 4095) with engine.slots := [(65535, st)] } : Part).slotAt 65535 = st
        ∧ ({ walking (walkOf .leaf) (.leaf 0 4095) with engine.slots := [(65535, st)] } : Part).quiet = true)
    ∧ (let p := walking (walkOf .record (some 65535)) (.record 65535) { calm with engine.slots := [(65535, .live)] };
        p.quiet = true ∧ p.slotAt 65535 = .live ∧ p.mem.value (.record 65535) = .record none false
          ∧ p.engine.faults.length < 16 ∧ p.cacheFind rec0.primary = none ∧ tfind p.path.missFile 7
            = some (walkOf .record (some 65535))) :=
  ⟨reads_of (by decide), by decide, by decide, by decide, by decide, by decide, by decide, by decide⟩

theorem test_witness_Walk_sound_record : let p : Part := { calm with
      mem.records := [(65535, ⟨rec0, checkWordOf 65535 rec0⟩)] }
    p.mem.value (.record 65535) = .record (some rec0) true := by
  simp [RecordMemory.value, StoredRecord.sound, tfind]

theorem test_witness_Walk_leaf_forms :
    ∀ leaf ∈ [LeafEntry.primary 65535, .aliasOf 65535],
      let p := walking (walkOf .leaf) (.leaf 0 4095) { calm with
        mem.blocks := [(0, .leaf [(4095, leaf)])], engine.slots := [(65535, .live)] };
      p.quiet = true ∧ p.mem.value (.leaf 0 4095) = .leaf leaf ∧ p.slotAt 65535 = .live := by decide

/-- A walk keeps the form of the leaf entry that it has read, and the contexts it serves take it. -/
theorem test_walk_keeps_the_form_of_the_leaf_entry :
    let p := walking (walkOf .leaf) (.leaf 0 4095) { calm with engine.slots := [(65535, .live)] };
    (tfind (p.walkRead 7 (walkOf .leaf) (.leaf (.aliasOf 65535))).path.missFile 7).map Walk.form = some .aliased
      ∧ (tfind (p.walkRead 7 { walkOf .leaf with form := .aliased } (.leaf (.primary 65535))).path.missFile 7).map Walk.form
          = some .primary
      ∧ ((p.walkFilled 7 { walkOf .fill with form := .aliased } 255 65535).ctx? 15).map (fun x => x.keyForm rec0.primary)
          = some .aliased := by decide

/-- Walks of an older epoch, for the alias of another lot, and over an entry that a flush is to remove. -/
theorem test_witness_Walk_holds_and_restarts :
    (∀ w ∈ [{ walkOf .record (some 65535) with epoch := 1 }, { walkOf .record (some 65535) with key := key 254 0 63 },
        { walkOf .holds (some 65535) with key := key 254 0 63, record := some rec0 },
        { walkOf .holds (some 65535) with key := key 254 0 63, record := some rec0, epoch := 1 }],
      ∀ st ∈ [SlotState.live, .faulted, .retiring], ∀ roots ∈ [([] : Table RootEntry), [(254, { branch := some 0 }), (255, { branch := some 1023 })]],
        let p := walking w (.branch 1023 4095) { calm with engine.slots := [(65535, st)], engine.roots := roots };
        p.quiet = true ∧ p.mem.value (.branch 1023 4095) = .branch {} ∧ p.slotAt 65535 = st ∧ tfind p.path.missFile 7 = some w)
    ∧ (walking { walkOf .holds (some 65535) with record := some rec0 } (.branch 1023 4095)).reads (.walk 7) (.branch 1023 4095)
    ∧ (let p := walking (walkOf .record (some 65535)) (.record 65535) { cached with
          path.flush := some { consignor := 255, lot := none, epoch := 0, nextSet := 0, ctx := 14 } };
        p.quiet = true ∧ (p.cacheFind rec0.primary).isSome = true
          ∧ ({ p with path.flush := some { consignor := 255, lot := none, epoch := 1, nextSet := 0, ctx := 14 } } : Part).outdated
            { slot := 65535, record := rec0, conHold := none, lotHold := none, pinned := false, fillEpoch := 0 } = true)
    ∧ key 254 0 63 ≠ rec0.primary ∧ rec0.primary.consignor ≠ (key 254 0 63).consignor :=
  ⟨by decide, reads_of (by decide), by decide, by decide, by decide⟩

theorem waits_of {p : Part} {x : Context} (h : (decide (p.ctx? 15 = some x) && decide (x.stage ≠ .answered)
      && decide (x.toIssue = [] ∧ x.outstanding = 0) && !p.hasHeld 15
      && decide (x.request ≠ .restart ∧ x.request ≠ .format)) = true) : p.Waits 15 x := by
  simp only [Bool.and_eq_true, decide_eq_true_eq, Bool.not_eq_true'] at h
  exact ⟨h.1.1.1.1, h.1.1.1.2, h.1.1.2, h.1.2, h.2⟩

/-- The directory turn is held for context 15's request `x`, whose reads are `reads`, the first of them being made. -/
def turning (x : Context) (r : ReadTarget) (more : List ReadTarget) (p : Part) : Part :=
  { p with path.inFlight := some (.read ⟨.update, r, true⟩), engine.contexts := [(15, x)]
           engine.turn := [{ owner := .request 15, reads := r :: more, begun := true }] }

/-- A directory with branch block 1,023 for consignor 255 and its lot 4,095 as given. -/
def directory (e : BranchEntry) (leaf : Table LeafEntry := []) : Part :=
  { calm with
    engine.roots := [(255, { branch := some 1023 })], engine.slots := [(65535, .live)], engine.slotFree := [(0, 65535)]
    mem.blocks := [(0, .leaf leaf), (1023, .branch [(4095, e)])] }

/-- A context that holds the record of slot 65,535. -/
def holding (r : Request) (c : CarrierRecord := rec0) : Context := { idler r with working := [(65535, c)] }

theorem test_witness_DirectoryTurn :
    (let x := idler (.enroll rec0.primary 7 none none);
      let p := turning x (.branch 1023 4095) [] (directory { leaf := some 0, live := 1 });
      p.quiet = true ∧ p.reads .update (.branch 1023 4095) ∧ p.Waits 15 x ∧ p.flushes 15 = false
        ∧ p.leafAt rec0.primary = .empty ∧ (p.branchNow 1023 4095).leaf = some 0 ∧ p.engine.slotFree.pop = some (0, [(1, 65534)])
        ∧ p.roomToWrite 3 = true ∧ p.roomToIssue = true)
    ∧ (let x := idler (.enroll rec0.primary 7 none none);
      let p := turning x (.branch 1023 4095) [.leaf 0 4095] (directory { leaf := some 0 } [(4095, .primary 65535)]);
      p.quiet = true ∧ p.leafAt rec0.primary = .primary 65535)
    ∧ ({ directory {} with engine.slotFree := [] } : Part).engine.slotFree.pop = none
    ∧ ((directory {}).branchNow 1023 4095).leaf = none ∧ (directory {}).engine.blockFree.size = 0
    ∧ (let x := holding (.relabel rec0.primary (key 255 4095 0) none);
      let p := turning x (.leaf 0 0) [] (directory { leaf := some 0, live := 1 });
      p.quiet = true ∧ p.Waits 15 x ∧ p.leafAt (key 255 4095 0) = .empty ∧ x.working.head? = some (65535, rec0))
    ∧ (∀ c ∈ [rec0, { rec0 with link := some 4095 }], let x := holding (.retire rec0.primary 0 none) c;
      let p := turning x (.leaf 0 4095) [] (directory { leaf := some 0, live := 2 } [(4095, .primary 65535)]);
      p.quiet = true ∧ (p.branchNow 1023 4095).leaf = some 0 ∧ 1 < (p.branchNow 1023 4095).live ∧ p.slotAt 65535 = .live
        ∧ p.roomToWrite 2 = true ∧ x.working.head? = some (65535, c) ∧ c.aliases = [] ∧ c.checkout = none) :=
  ⟨⟨by decide, reads_of (by decide), waits_of (by decide), by decide, by decide, by decide, by decide, by decide, by decide⟩,
    by decide, by decide, by decide, by decide, ⟨by decide, waits_of (by decide), by decide, by decide⟩, by decide⟩

theorem test_witness_DirectoryTurn_stale_leaf :
    let p := turning (holding (.retire rec0.primary 0 none)) (.leaf 0 4095) [] (directory { leaf := some 0, live := 2 } [(4095, .primary 0)]);
    p.quiet = true ∧ (p.leafAt rec0.primary).slot? ≠ some 65535 ∧ p.slotAt 65535 = .live ∧ p.roomToWrite 2 = true := by decide

/-- The read of a LOT-level hold request of context 15. -/
def lotHolding (r : Request) (hold : Option Nat) : Part :=
  let p := directory { leaf := some 0, hold := hold, live := 1 }
  { p with path.inFlight := some (.read ⟨.hold, .branch 1023 4095, true⟩), engine.holdRead := some 15
           engine.contexts := [(15, idler r)] }

theorem test_witness_LotHold :
    (∀ h ∈ [none, some 255, some 0], let p := lotHolding (.hold (.lot 255 4095) 255) h;
      p.quiet = true ∧ (p.branchNow 1023 4095).hold = h ∧ (p.rootAt 255).branch = some 1023 ∧ p.flushes 15 = false
        ∧ p.roomToWrite 1 = true ∧ (lotHolding (.unhold (.lot 255 4095) 255) h).quiet = true)
    ∧ (lotHolding (.hold (.lot 255 4095) 255) none).reads .hold (.branch 1023 4095)
    ∧ (lotHolding (.hold (.lot 255 4095) 255) none).Waits 15 (idler (.hold (.lot 255 4095) 255))
    ∧ (lotHolding (.unhold (.lot 255 4095) 255) none).Waits 15 (idler (.unhold (.lot 255 4095) 255))
    ∧ (∀ n ∈ [62, 63], let p : Part := { cached with
          path.flush := some { consignor := 255, lot := none, epoch := 1, nextSet := n, ctx := 15 } }; p.quiet = true)
    ∧ (let x : Context := { idler (.hold (.lot 255 4095) 255) with reply := some ⟨.ok, []⟩, stage := .awaitingWrite };
        ({ calm with engine.contexts := [(15, x)] } : Part).Waits 15 x) :=
  ⟨by decide, reads_of (by decide), waits_of (by decide), waits_of (by decide), by decide, waits_of (by decide)⟩

/-- The RANGE_IN_USE check of context 15 reads the entry of consignor 255, lot `lot`. -/
def rangeReading (e : BranchEntry) (lot : Nat) (n : ExemptRange) : Part :=
  let p := directory e
  { p with path.inFlight := some (.read ⟨.range, .branch 1023 lot, true⟩)
           engine.range := some { ctx := 15, range := 3, proposed := n, begun := true, consignor := 255, lot := lot }
           engine.contexts := [(15, idler (.exemptSet 3 1 255 4095 0 1))] }

theorem test_witness_RangeCheck :
    (∀ e ∈ [({} : BranchEntry), { leaf := some 0 }], let p := rangeReading e 4095 anyRange;
      p.quiet = true ∧ p.mem.value (.branch 1023 4095) = .branch e ∧ p.flushes 15 = false ∧ p.roomToWrite 1 = true
        ∧ p.nextRange anyRange 255 4096 = none)
    ∧ (rangeReading {} 0 anyRange).quiet = true
    ∧ (rangeReading {} 0 anyRange).nextRange anyRange 255 1 = some (255, 1, 1023)
    ∧ (rangeReading {} 4095 anyRange).reads .range (.branch 1023 4095)
    ∧ (rangeReading {} 4095 anyRange).Waits 15 (idler (.exemptSet 3 1 255 4095 0 1)) :=
  ⟨by decide, by decide, by decide, reads_of (by decide), waits_of (by decide)⟩

/-- An ENROLL whose key has resolved and a RELABEL whose new key has not wait for the check of a range that covers them. -/
theorem test_witness_RangeCheck_rechecks :
    let e := ask (.enroll (key 255 4095 9) 0 none none) [⟨key 255 4095 9, .notFound⟩];
    let r := ask (.relabel rec0.primary (key 255 4095 9) none) [⟨rec0.primary, .fetching⟩, ⟨key 255 4095 9, .fetching⟩];
    let p := rangeReading {} 4095 anyRange;
    let q : Part := { p with engine.contexts := [(13, e), (14, r)] ++ p.engine.contexts };
    q.quiet = true ∧ e.stage = .resolving ∧ insertsKey e.request = some (key 255 4095 9)
      ∧ insertsKey r.request = some (key 255 4095 9) ∧ anyRange.coversLot 255 4095 = true
      ∧ (e.resolutionOf (key 255 4095 9)).resolved = true ∧ (r.resolutionOf (key 255 4095 9)).resolved = false
      ∧ exemptOutcome [anyRange] (key 255 4095 9) = some (false, 0) := by decide

theorem test_witness_QueuedWrites :
    (∀ w ∈ [bagWrite, recordWrite 65535], (accessing .write (queued [w] [])).quiet = true)
    ∧ bagWrite.body.isRecord = false ∧ (WriteBody.leaf 0 4095 .empty).answers (.leaf 0 4095) = some (.leaf .empty)
    ∧ (queued (List.replicate 7 bagWrite) [bagWrite]).alive = true
    ∧ (queued (List.replicate 7 bagWrite) [bagWrite]).path.queue.length < 8
    ∧ (let x : Context := { idler (.move rec0.primary 31 none) with reply := some ⟨.ok, []⟩, stage := .awaitingWrite };
        let p : Part := { calm with engine.contexts := [(15, x)] }; p.Waits 15 x ∧ p.flushes 15 = false) :=
  ⟨by decide, by decide, by decide, by decide, by decide, waits_of (by decide), by decide⟩

/-- A RELEASE_ALL of context 15 that stands at entry `n`, where slot 65,535 is checked out. -/
def releasing (n : Nat) (port : Option Nat) (p : Part) (reading : Bool := false) : Part :=
  { p with
    engine.releaseAll := some { ctx := 15, port := port, station := some 255, nextEntry := n, reading := reading }
    engine.checkouts := [(2046, ⟨65535, rec0.primary, 3, 255, 0⟩)]
    engine.contexts := [(15, idler (.releaseAll port (some 255)))] }

theorem test_witness_ReleaseAll : performedOn calm (ask (.releaseAll (some 3) (some 255)))
    ∧ performedOn calm (ask (.releaseAll (some 4) (some 255)))
    ∧ (∀ q ∈ [releasing 2045 (some 3) calm, releasing 2047 (some 3) calm, releasing 2046 (some 0) calm,
        releasing 2046 (some 3) calm, releasing 2046 (some 3) (cached { rec0 with checkout := some 2046 }),
        releasing 2046 (some 3) { calm with engine.slots := [(65535, .live)] }],
        q.quiet = true ∧ (q.engine.releaseAll.map fun ra => q.releaseAllReady ra) = some true ∧ q.flushes 15 = false)
    ∧ (releasing 2046 (some 3) calm).slotAt 65535 ≠ .live
    ∧ ((cached { rec0 with checkout := some 2046 }).cacheOfSlot 65535).isSome = true ∧ calm.cacheOfSlot 65535 = none
    ∧ (releasing 2046 (some 3) calm).Waits 15 (idler (.releaseAll (some 3) (some 255)))
    ∧ (let p := accessing (.read ⟨.releaseAll, .record 65535, true⟩)
          (releasing 2046 (some 3) { calm with engine.slots := [(65535, .live)] } true);
        p.quiet = true ∧ p.reads .releaseAll (.record 65535) ∧ p.mem.value (.record 65535) = .record none false
          ∧ p.engine.faults.length < 16) :=
  ⟨performed_of (by decide), performed_of (by decide), by decide, by decide, by decide, by decide, waits_of (by decide),
    by decide, reads_of (by decide), by decide, by decide⟩

/-- The read of RELEASE_ALL has a sound record that a cached, a queued or no newer one supersedes. -/
theorem test_witness_ReleaseAll_read :
    let r : CarrierRecord := { rec0 with checkout := some 2046 };
    let p : Part := { calm with engine.slots := [(65535, .live)], mem.records := [(65535, ⟨r, checkWordOf 65535 r⟩)] };
    p.mem.value (.record 65535) = .record (some r) true ∧ r.checkout = some 2046
      ∧ ((cached { r with hold := some 0 } p).cacheOfSlot 65535).isSome = true ∧ p.cacheOfSlot 65535 = none
      ∧ streamValue (queued [⟨none, .record 65535 ⟨{ r with hold := some 0 }, 0⟩⟩] [] p).stream (.record 65535)
        = some (.record (some { r with hold := some 0 }) true)
      ∧ streamValue p.stream (.record 65535) = none := by
  refine ⟨?_, by decide, by decide, by decide, by decide, by decide⟩
  simp [RecordMemory.value, StoredRecord.sound, tfind]

/-! ### Witnesses: the client ports -/

/-- Port 3 of a part is as given. -/
def ported (q : Port) (p : Part := calm) : Part := { p with port.ports := List.replicate 3 {} ++ [q] }

theorem test_witness_NoticesAnswersAndTurns :
    ({ settings := { enabled := false } } : Port).settings.enabled = false ∧ ({} : Port).settings.enabled = true
    ∧ 32 ≤ ({ notices := List.replicate 32 ⟨.warn, 0, []⟩ } : Port).notices.length
    ∧ (let q : Port := { answers := [⟨1, 0, [], none⟩], notices := [⟨.warn, 0, []⟩] };
        q.turn = none ∧ q.lastTurn = .notice ∧ ({ q with lastTurn := .answer } : Port).lastTurn = .answer)
    ∧ (let q : Port := { waitingAnswers := [⟨⟨35, 0, [], some .restart⟩, some 15⟩], outstanding := 16 };
        (ported q).alive = true ∧ (ported q).engine.startOwed = none
          ∧ ((ported q).portAt 3).waitingAnswers = [⟨⟨35, 0, [], some .restart⟩, some 15⟩]
          ∧ ((ported q).portAt 3).answers.length < 16)
    ∧ (let q : Port := { turn := some ⟨.answer, []⟩ }; (ported q).quiet = true ∧ ((ported q).portAt 3).turn ≠ none) := by
  decide

theorem test_witness_Framer : (∀ m ∈ [FramerMode.sync, .hunt], (ported { framer := { mode := m } }).quiet = true
      ∧ (ported { framer := { mode := m } }).sized = true ∧ ((ported { framer := { mode := m } }).portAt 3).framer.mode = m
      ∧ ((ported { framer := { mode := m } }).portAt 3).framer.held = [])
    ∧ (0xC4#8 : Byte) ≠ 0xC5#8 ∧ 248 < (0xF9#8 : Byte).toNat ∧ (0xF8#8 : Byte).toNat = (List.replicate 248 (0#8 : Byte)).length
    ∧ (let head : List Byte := [0xC5#8, 2, 22, 9, 0, 0];
        ∃ lo hi : Byte, lo = BitVec.ofNat 8 (frameCheck head).toNat ∧ hi = BitVec.ofNat 8 ((frameCheck head).toNat / 256)) :=
  ⟨by decide, by decide, by decide, by decide, _, _, rfl, rfl⟩

/-- A whole request frame, its check sent low byte first (R171). -/
def frameOf (code : Byte) (body : List Byte) : List Byte :=
  let head : List Byte := [0xC5#8, 1, code, 9, 0, BitVec.ofNat 8 body.length] ++ body
  head ++ [BitVec.ofNat 8 (frameCheck head).toNat, BitVec.ofNat 8 ((frameCheck head).toNat / 256)]

theorem test_witness_RequestArrival : (ported {}).quiet = true ∧ (ported {}).sized = true
    ∧ ((ported { outstanding := 15 }).portAt 3).outstanding < 16 ∧ 16 ≤ ((ported { outstanding := 16 }).portAt 3).outstanding
    ∧ ((ported { settings := { enabled := false } }).portAt 3).settings.enabled = false
    ∧ parseRequest 37 [] = none ∧ parseRequest 22 [] = some .status ∧ ({} : Caps).allow 22 = true
    ∧ parseRequest 36 [] = some .format ∧ ({} : Caps).allow 36 = false := by decide

/-! ### Witnesses: the performance of requests -/

/-- `rec0`'s key with a given resolution. -/
def resolved (r : Resolution) (k : Key := rec0.primary) : List CtxKey := [⟨k, r⟩]

def enrolling (cls : Nat) (r : Resolution) : Context := ask (.enroll rec0.primary cls (some 1048575) (some 15)) (resolved r)

theorem test_witness_DirectoryRequests :
    performedOn calm (enrolling 8 .notFound) ∧ performedOn calm (enrolling 7 (.exempt true 3))
    ∧ performedOn calm (enrolling 7 .recordFault) ∧ performedOn cached (enrolling 7 (.entry 255 65535 0 .primary))
    ∧ (let x := { enrolling 7 .notFound with port := 3 };
        let p : Part := { calm with engine.roots := [(255, { ports := [1, 2] })] };
        performedOn p x ∧ p.permits 3 rec0.primary.consignor = false)
    ∧ (let p : Part := { calm with engine.turn := [{ owner := .request 0, begun := true }] };
        performedOn p (enrolling 7 .notFound) ∧ performedOn p (ask (.forceRetire 15 65535)))
    ∧ (performedOn (directory {}) (enrolling 7 .notFound) ∧ [rec0.primary].flatMap (directory {}).keyReads ≠ [])
    ∧ (let p : Part := { calm with engine.slotFree := [(65535, 1)], engine.blockFree := [(1022, 2)] };
        performedOn p (enrolling 7 .notFound) ∧ (p.rootAt 255).branch = none ∧ p.engine.slotFree.pop = some (65535, [])
          ∧ p.engine.blockFree.pop = some (1022, [(1023, 1)]) ∧ FreeList.pop [(1023, 1)] = some (1023, [])
          ∧ 2 ≤ p.engine.blockFree.size ∧ p.roomToWrite 4 = true ∧ p.roomToIssue = true)
    ∧ calm.engine.slotFree.pop = none ∧ FreeList.size [(0, 1)] < 2 :=
  ⟨performed_of (by decide), performed_of (by decide), performed_of (by decide), performed_of (by decide),
    ⟨performed_of (by decide), by decide⟩, ⟨performed_of (by decide), performed_of (by decide)⟩,
    ⟨performed_of (by decide), by decide⟩,
    ⟨performed_of (by decide), by decide, by decide, by decide, by decide, by decide, by decide, by decide⟩, by decide, by decide⟩

theorem test_witness_DirectoryRequests_recheck :
    let p : Part := { calm with engine.exempt := [anyRange] };
    performedOn p { enrolling 7 .notFound with recheck := true } ∧ performedOn calm { enrolling 7 .notFound with recheck := true }
      ∧ exemptOutcome p.engine.exempt rec0.primary = some (false, 0) ∧ exemptOutcome calm.engine.exempt rec0.primary = none
      ∧ insertsKey (enrolling 7 .notFound).request = some rec0.primary :=
  ⟨performed_of (by decide), performed_of (by decide), by decide, by decide, by decide⟩

/-- A RELABEL of `rec0` whose key is READY. -/
def relabelling : Context :=
  ask (.relabel rec0.primary (key 0 0 0) none) (keyed ++ [⟨key 0 0 0, .byTurn⟩])

/-- The carrier of slot 65,535, checked out as entry 2,047 by station 255 of port 3. -/
def heldOut (r : CarrierRecord := rec0) : Part :=
  { cached { r with checkout := some 2047 } with
    engine.checkouts := [(2047, ⟨65535, rec0.primary, 3, 255, 0⟩)] }

theorem test_witness_RelabelAndRetire : performedOn cached relabelling
    ∧ (cached.carrierOf relabelling rec0.primary).toOption.isSome = true
    ∧ performedOn calm (ask (.relabel rec0.primary (key 0 0 0) none) (resolved (.exempt false 0) ++ [⟨key 0 0 0, .byTurn⟩]))
    ∧ performedOn heldOut relabelling ∧ heldOut.heldByOther 0 none 65535 = true
    ∧ performedOn (cached { rec0 with aliases := [key 1 0 0, key 2 0 0] }) relabelling
    ∧ performedOn cached (ask (.retire rec0.primary 255 none) keyed)
    ∧ performedOn heldOut (ask (.retire rec0.primary 255 none) keyed)
    ∧ performedOn calm (ask (.retire rec0.primary 255 none) (resolved .notFound))
    ∧ performedOn calm (ask (.forceRetire 16 65535)) ∧ performedOn calm (ask (.forceRetire 15 65535))
    ∧ (let p : Part := { calm with engine.faults := List.replicate 16 ⟨65535, rec0.primary, none⟩ };
        performedOn p (ask (.forceRetire 15 65535)) ∧ p.engine.faults[15]? = some ⟨65535, rec0.primary, none⟩) :=
  ⟨performed_of (by decide), by decide, performed_of (by decide), performed_of (by decide), by decide, performed_of (by decide),
    performed_of (by decide), performed_of (by decide), performed_of (by decide), performed_of (by decide),
    performed_of (by decide), performed_of (by decide), by decide⟩

theorem test_witness_ReadingRequests :
    performedOn calm (ask (.lookup rec0.primary) (resolved (.exempt true 3)))
    ∧ performedOn calm (ask (.lookup rec0.primary) (resolved .notFound)) ∧ performedOn cached (ask (.lookup rec0.primary) keyed)
    ∧ (cached.carrierOf (ask (.lookup rec0.primary) keyed) rec0.primary).toOption.isSome = true ∧ cached.roomToIssue = true
    ∧ (∀ need ∈ [1048575, 1048576], ∀ r ∈ [Resolution.exempt false 0, .exempt true 0, .notFound, .recordFault],
        performsNow (busy (ask (.verify rec0.primary 255 need) (resolved r))) 15
          (ask (.verify rec0.primary 255 need) (resolved r)) = true)
    ∧ performedOn (cached { rec0 with link := some 4095 }) (ask (.verify rec0.primary 255 1) keyed)
    ∧ performedOn calm (ask (.checkout rec0.primary 256 1) (resolved .notFound))
    ∧ performedOn calm (ask (.checkout rec0.primary 255 2) (resolved .notFound))
    ∧ performedOn cached (ask (.checkout rec0.primary 255 1) keyed)
    ∧ performedOn (cached { rec0 with hold := some 0 }) (ask (.checkout rec0.primary 255 1) keyed)
    ∧ performedOn heldOut (ask (.checkout rec0.primary 255 1) keyed)
    ∧ performedOn heldOut { ask (.checkout rec0.primary 255 1) keyed with port := 3 }
    ∧ performedOn (heldOut { rec0 with watch := [0] }) (ask (.checkout rec0.primary 255 1) keyed)
    ∧ heldOut.checkoutOf 65535 = some (2047, ⟨65535, rec0.primary, 3, 255, 0⟩) :=
  ⟨performed_of (by decide), performed_of (by decide), performed_of (by decide), by decide, by decide, by decide,
    performed_of (by decide), performed_of (by decide), performed_of (by decide), performed_of (by decide),
    performed_of (by decide), performed_of (by decide), performed_of (by decide), performed_of (by decide), by decide⟩

theorem test_witness_ReadingRequests_resolutions :
    ∀ r ∈ [Resolution.exempt true 3, .notFound, .recordFault, .entry 255 65535 0 .primary],
      ((ask (.lookup rec0.primary) (resolved r)).keys.find? fun e => e.key == rec0.primary) = some ⟨rec0.primary, r⟩
        ∧ (tfind cached.path.cache 255).isSome = true := by decide

/-- Two carriers, slots 65,534 and 65,535, READY. -/
def twoCached : Part :=
  { cached with
    path.cache := (250, { slot := 65534, record := { primary := key 255 4095 4094 }, conHold := none, lotHold := none
                          pinned := false, fillEpoch := 0 }) :: cached.path.cache
    engine.slots := [(65534, .live), (65535, .live)], engine.bagFree := [(4095, 1)] }

def twoKeys : List CtxKey := [⟨key 255 4095 4094, .entry 250 65534 0 .primary⟩, ⟨rec0.primary, .entry 255 65535 1 .primary⟩]

theorem test_witness_MovingRequests :
    performedOn calm (ask (.openKeys 31 [])) ∧ performedOn calm (ask (.openKeys 32 [rec0.primary]) (resolved .notFound))
    ∧ performedOn calm (ask (.openKeys 31 [rec0.primary]) (resolved .notFound))
    ∧ performedOn cached (ask (.openKeys 31 [rec0.primary]) keyed)
    ∧ performedOn heldOut (ask (.openKeys 31 [rec0.primary]) keyed)
    ∧ performedOn (cached { rec0 with hold := some 0 }) (ask (.openKeys 31 [rec0.primary]) keyed)
    ∧ (let x := ask (.openKeys 31 [key 255 4095 4094, rec0.primary]) twoKeys;
        performedOn twoCached x ∧ (∀ k ∈ [key 255 4095 4094, rec0.primary], twoCached.memberRefusal x k = none)
          ∧ [key 255 4095 4094, rec0.primary].filterMap (fun k => (twoCached.entryOf x k).map CacheEntry.slot) = [65534, 65535]
          ∧ twoCached.engine.bagFree.pop = some (4095, []) ∧ twoCached.roomToIssue = true)
    ∧ (let x := ask (.openKeys 31 [rec0.primary, rec0.primary]) keyed;
        performedOn cached x ∧ cached.memberRefusal x rec0.primary = none ∧ cached.engine.bagFree.pop = none)
    ∧ (let x := ask (.openKeys 31 [rec0.primary, key 0 0 0]) (keyed ++ resolved .notFound (key 0 0 0));
        performedOn cached x ∧ cached.memberRefusal x (key 0 0 0) = some .notFound)
    ∧ performedOn cached (ask (.move rec0.primary 31 none) keyed) ∧ performedOn heldOut (ask (.move rec0.primary 31 none) keyed)
    ∧ performedOn (cached { rec0 with hold := some 0 }) (ask (.move rec0.primary 31 none) keyed)
    ∧ performedOn (cached { rec0 with link := some 4095 }) (ask (.move rec0.primary 31 none) keyed)
    ∧ performedOn cached (ask (.seal rec0.primary) keyed) ∧ performedOn heldOut (ask (.seal rec0.primary) keyed)
    ∧ performedOn (cached { rec0 with link := some 4095 }) (ask (.seal rec0.primary) keyed) :=
  ⟨performed_of (by decide), performed_of (by decide), performed_of (by decide), performed_of (by decide),
    performed_of (by decide), performed_of (by decide), ⟨performed_of (by decide), by decide, by decide, by decide, by decide⟩,
    ⟨performed_of (by decide), by decide, by decide⟩, ⟨performed_of (by decide), by decide⟩, performed_of (by decide),
    performed_of (by decide), performed_of (by decide), performed_of (by decide), performed_of (by decide),
    performed_of (by decide), performed_of (by decide)⟩

/-- Bag 4,095 is LIVE with the two carriers as its members; the second is checked out where `out` says so. -/
def twoInBag (out : Bool) (hold : Option Nat := none) : Part :=
  let r : CarrierRecord := { rec0 with link := some 4095, checkout := if out then some 2047 else none }
  { twoCached with
    path.cache := twoCached.path.cache.map fun e => if e.1 = 255 then (255, { e.2 with record := r, pinned := out }) else e
    engine.bags := [(4095, .live [(65534, key 255 4095 4094), (65535, rec0.primary)] hold 0)]
    tally.table := [(69631, .resident { bagTally with zone := 30 })] }

theorem test_witness_GroupsListsAndReleases :
    performedOn calm (ask (.moveGroup 4096 31)) ∧ performedOn calm (ask (.moveGroup 4095 31))
    ∧ (∀ p ∈ [twoInBag false, twoInBag true, twoInBag false (some 0)], ∀ z ∈ [30, 31],
        performsNow (busy (ask (.moveGroup 4095 z) twoKeys) p) 15 (ask (.moveGroup 4095 z) twoKeys) = true
        ∧ (p.memberEntries (p.beginPerform 15 (ask (.moveGroup 4095 z) twoKeys)).2
            [(65534, key 255 4095 4094), (65535, rec0.primary)]).toOption.map List.length = some 2)
    ∧ performedOn (twoInBag true) (ask (.listBag 4095)) ∧ performedOn calm (ask (.listBag 4096))
    ∧ performedOn calm (ask (.listBag 4095))
    ∧ performedOn calm (ask (.listDue 31 7 65535 32)) ∧ performedOn calm (ask (.listDue 31 7 65535 33))
    ∧ performedOn heldOut (ask (.listCheckouts (some 3) (some 255) 2047 32))
    ∧ performedOn heldOut (ask (.listCheckouts (some 3) (some 255) 2048 32))
    ∧ performedOn heldOut (ask (.release rec0.primary 255) keyed) ∧ performedOn cached (ask (.release rec0.primary 255) keyed)
    ∧ performedOn heldOut { ask (.release rec0.primary 255) keyed with port := 1 }
    ∧ performedOn heldOut (ask (.release rec0.primary 256) keyed)
    ∧ performedOn calm (ask (.release rec0.primary 255) (resolved .recordFault)) :=
  ⟨performed_of (by decide), performed_of (by decide), by decide, performed_of (by decide), performed_of (by decide),
    performed_of (by decide), performed_of (by decide), performed_of (by decide), performed_of (by decide),
    performed_of (by decide), performed_of (by decide), performed_of (by decide), performed_of (by decide),
    performed_of (by decide), performed_of (by decide)⟩

theorem test_witness_Holds :
    (∀ r ∈ [rec0, { rec0 with hold := some 255 }, { rec0 with hold := some 0 }],
      ∀ q ∈ [Request.hold (.carrier rec0.primary) 255, .unhold (.carrier rec0.primary) 255],
        performsNow (busy (ask q keyed) (cached r)) 15 (ask q keyed) = true)
    ∧ performedOn calm (ask (.hold (.carrier rec0.primary) 255) (resolved .notFound))
    ∧ (∀ h ∈ [none, some 255, some 0], ∀ q ∈ [Request.hold (.bag 4095) 255, .unhold (.bag 4095) 255, .hold (.bag 4096) 255],
        performsNow (busy (ask q) (twoInBag false h)) 15 (ask q) = true)
    ∧ performedOn calm (ask (.hold (.bag 4095) 255))
    ∧ (∀ e ∈ [({} : RootEntry), { branch := some 1023 }, { branch := some 1023, hold := some 255 }, { hold := some 0 }],
        ∀ q ∈ [Request.hold (.consignor 255) 255, .unhold (.consignor 255) 255, .hold (.consignor 256) 255,
            .hold (.lot 255 4095) 255, .unhold (.lot 255 4095) 255, .hold (.lot 255 4096) 255],
          performsNow (busy (ask q) { calm with engine.roots := [(255, e)] }) 15 (ask q) = true) :=
  ⟨by decide, performed_of (by decide), by decide, performed_of (by decide), by decide⟩

theorem test_witness_Configuration :
    (∀ q ∈ [Request.classSet 7 { budget := 1048575, warnMargin := 65535, creditRatio := 31, creditCap := 65535, minBake := 2880
                                 bakeLimit := 15 },
        .classSet 7 { budget := 1048576 }, .bandSet 6 1000 (-400), .bandSet 7 1000 1250, .weightSet 7 7 63, .weightSet 7 7 64,
        .portSet 3 1 7, .portSet 3 0 0, .portSet 0 1 7, .consignorSet 255 14, .consignorSet 255 15,
        .routeSet [(1, none), (9, some 3)], .routeSet [(3, none)], .exemptSet 3 0 255 4095 1048575 1,
        .exemptSet 3 1 255 4095 1048575 1, .exemptSet 4 0 0 0 0 0],
      performsNow (busy (ask q)) 15 (ask q) = true)
    ∧ calm.roomToWrite 1 = true ∧ calm.port.routing.length = 8 ∧ calm.tally.useCounts.getD 7 0 = 0
    ∧ performedOn { calm with tally.useCounts := List.replicate 8 1 } (ask (.classSet 7 {}))
    ∧ (let p : Part := { calm with engine.contexts := [(14, idler (.enroll rec0.primary 0 none none)),
          (15, ask (.exemptSet 3 1 255 4095 1048575 1))] };
        p.Performs 15 (ask (.exemptSet 3 1 255 4095 1048575 1))
          ∧ (idler (.enroll rec0.primary 0 none none)).active = true ∧ anyRange.coversLot 255 4095 = true)
    ∧ (directory {}).nextRange anyRange 0 0 = some (255, 0, 1023) ∧ calm.nextRange anyRange 0 0 = none :=
  ⟨by decide, by decide, by decide, by decide, performed_of (by decide), ⟨performs_of (by decide), by decide, by decide⟩,
    by decide, by decide⟩

theorem test_witness_TimeSet : performedOn calm (ask (.timeSet 160)) ∧ performedOn calm (ask (.timeSet 161))
    ∧ performedOn calm (ask (.timeSet 40)) ∧ performedOn { calm with zone.wallMinute := none } (ask (.timeSet 4294967295))
    ∧ performedOn { calm with engine.mode := .awaitTime, zone.lastAdvance := some 90 } (ask (.timeSet 100))
    ∧ ({ calm with engine.mode := .awaitTime } : Part).zone.lastAdvance = none ∧ calm.zone.wallMinute = some 100 :=
  ⟨performed_of (by decide), performed_of (by decide), performed_of (by decide), performed_of (by decide),
    performed_of (by decide), by decide, by decide⟩

theorem test_witness_TimeSet_gap :
    (∀ last ∈ [none, some 99, some 101], let p : Part := { baking with
        engine.mode := .awaitTime, zone.lastAdvance := last, zone.writes := [.zone 31 none, .zone 0 (some {})] };
      performsNow (busy (ask (.timeSet 100)) p) 15 (ask (.timeSet 100)) = true ∧ (p.zoneAt 31).bake = .running 3 60
        ∧ p.zone.timers.getD 3 none = some ⟨31, 10⟩) := by decide

theorem test_witness_StatusFaultClearAndStarts : performedOn calm (ask .status)
    ∧ performedOn (inPhase .clearing) (ask .status) ∧ performedOn { calm with engine.mode := .unformatted } (ask .status)
    ∧ performedOn { calm with engine.mode := .readOnly, engine.faults := List.replicate 15 ⟨0, key 0 0 0, none⟩ }
        (ask .faultClear)
    ∧ performedOn { calm with engine.mode := .readOnly, engine.faults := List.replicate 16 ⟨0, key 0 0 0, none⟩ }
        (ask .faultClear)
    ∧ performedOn calm (ask .faultClear) ∧ performedOn calm (ask .restart) ∧ performedOn calm (ask .format)
    ∧ (calm.portAt 0).waitingAnswers = [] ∧ (calm.portAt 0).answers.length < 16 :=
  ⟨performed_of (by decide), performed_of (by decide), performed_of (by decide), performed_of (by decide),
    performed_of (by decide), performed_of (by decide), performed_of (by decide), performed_of (by decide), by decide,
    by decide⟩

/-! ### Witnesses: faults with a full list, forwarded reads, removals, the choices of work -/

/-- A part with 16 faults listed. -/
def fullOfFaults (p : Part) : Part := { p with engine.faults := List.replicate 16 ⟨0, key 0 0 0, none⟩ }

/-- The read in flight of a client has been answered from the write stream instead. -/
def forwarded (client : ReadClient) (t : ReadTarget) (v : ReadValue) (p : Part) : Part :=
  { p with path.inFlight := none, path.returned := [⟨⟨client, t, true⟩, v⟩] }

theorem returns_of {p : Part} {client : ReadClient} {t : ReadTarget} {v : ReadValue}
    (h : p.path.returned.find? (fun r => r.read.client == client) = some ⟨⟨client, t, true⟩, v⟩) : p.returns client t v :=
  Or.inr h

theorem test_witness_ScanDirectory_judged :
    (let p : Part := { scanning [(4095, .primary 65535)] [] [] with engine.faults := List.replicate 16 ⟨0, key 0 0 0, none⟩ };
      p.quiet = true ∧ p.mem.wf = true ∧ p.engine.slots = [] ∧ p.engine.bags = [] ∧ p.stream = [] ∧ p.path.waiting = []
        ∧ p.path.returned = [])
    ∧ (∀ r ∈ [{ rec0 with link := some 4095 }, { rec0 with checkout := some 3, watch := [1] }],
        ∀ bags ∈ [([] : Table BagRecord), [(4095, .live [] none 3)], [(4095, .closing none 3)]],
          let p := scanning [(4095, .primary 65535)] [(65535, ⟨r, checkWordOf 65535 rec0⟩)]
            [(65535, .following (.carrier rec0.primary) 7), (69631, .resident bagTally)];
          ({ p with mem.bags := bags } : Part).quiet = true ∧ ({ p with mem.bags := bags } : Part).mem.wf = true)
    ∧ (∀ n, n ∈ [65535] ↔ ∃ k, (k, n) ∈ (rooted (scanning [(4095, .primary 65535)] storedRec0 [])).leafEntries) := by
  refine ⟨by decide, by decide, fun n => ?_⟩
  rw [show (rooted (scanning [(4095, .primary 65535)] storedRec0 [])).leafEntries = [(rec0.primary, 65535)] from rfl]
  simp

/-- The sources of work alternate; a mark whose list is held, and a command behind one that names its tally, wait. -/
theorem test_witness_choice_of_work :
    let p : Part := { listed 1600 with tally.queue := [cmd (.seal 65535), { cmd (.read 65535) with id := 8 }] };
    let q : Part := { p with tally.lastSource := .marks };
    p.nextMark = some 255 ∧ p.nextCommand = none ∧ q.nextMark = none ∧ q.nextCommand = some (cmd (.seal 65535))
      ∧ p.tally.marks.Pairwise (· < ·)
      ∧ ({ q with zone.orders := [⟨31, 60⟩] } : Part).nextCommand = none
      ∧ ({ q with zone.orders := [⟨31, 60⟩] } : Part).nextMark = none
      ∧ ({ p with tally.marks := [3, 200, 255], tally.lastList := 200 } : Part).nextMark = some 255
      ∧ ({ p with tally.marks := [3, 200, 255], tally.lastList := 255 } : Part).nextMark = some 3 := by decide

theorem test_witness_checks_of_commands :
    let two : Part := { budgeted with tally.table := [(65534, sealed_), (65535, .sealed (.bag 0) 6 {})] };
    two.opRefusal (.join 69631 [65534] 31) = some .badField
    ∧ two.opRefusal (.join 69631 [65533, 65534] 31) = some .wrongState
    ∧ two.opRefusal (.join 69631 [65534, 65535] 31) = some .classMismatch
    ∧ bagged.opRefusal (.split 69631 65535 (some 32)) = some .badField
    ∧ bagged.opRefusal (.split 69631 65535 (some 31)) = none ∧ bagged.opRefusal (.leave 65535 69631) = none
    ∧ bagged.opRefusal (.leave 0 69631) = some .wrongState ∧ bagged.opRefusal (.seal 69631) = some .wrongState
    ∧ bagged.opRefusal (.free 69631) = some .wrongState ∧ bagged.opRefusal (.free 65535) = some .wrongState
    ∧ ({ bagged with tally.table := [(69631, .resident { bagTally with members := some 3, zone := 0 })]
                     zone.zones := List.replicate 31 {} ++ [{ capacity := 2 }] } : Part).opRefusal (.move 69631 31)
        = some .zoneFull := by decide

/-- A multi-key OPEN whose JOIN is refused: the bag number returns to the head of the free bag list. -/
theorem test_join_refused_returns_the_bag_number :
    let x := waiter (.openKeys 31 [key 0 0 1, key 0 0 2]);
    let p := awaited x.request (.join 69631 [1, 2] 31) { budgeted with engine.bagFree := [(5, 2)] };
    p.quiet = true ∧ p.Awaits 15 x ∧ p.opRefusal (.join 69631 [1, 2] 31) = some .wrongState
    ∧ ∃ t, exec .join (on p) = .next t ∧ t.part.engine.bagFree.numbers = [4095, 5, 6] :=
  ⟨by decide, awaits_of (by decide), by decide, _, rfl, by decide⟩

theorem test_witness_Read_listBag :
    let x : Context := { waiter (.listBag 4095) with left := [rec0.primary] };
    let p : Part := { readFor (.listBag 4095) (.resident carrierTally) with engine.contexts := [(15, x)] };
    p.Takes (cmd (.read 65535)) ∧ p.Awaits 15 x := ⟨takes_of (by decide), awaits_of (by decide)⟩

/-- The head in flight is not replaced, nor is a write with one of another kind behind it (R125); a read looks into the stream. -/
theorem test_witness_WriteJoins_clauses :
    let b := (recordWrite 65535).body;
    let inFlight := accessing .write (queued [recordWrite 65535] []);
    let behind := queued [recordWrite 65535, bagWrite] [];
    (inFlight.pushWrite none b).path.queue.length = 2 ∧ (behind.pushWrite none b).path.queue.length = 3
    ∧ ((accessing .tally (queued [recordWrite 65535] [])).pushWrite none b).path.queue.length = 1
    ∧ (behind.issueRead .update (.record 65535)).path.returned.length = 1
    ∧ (behind.issueRead .update (.record 0)).path.returned = [] := by decide

/-- A context with an older one of its key before it, or on a slot that another is active on, is not performed. -/
theorem test_witness_performable :
    let x : Context := { ask (.seal rec0.primary) keyed with arrival := 2 };
    let beside := fun (y : Context) => ({ cached with engine.contexts := [(14, y), (15, x)] } : Part).performable 15;
    (busy x cached).performable 15 = true
    ∧ beside { ask (.seal rec0.primary) keyed with arrival := 1 } = false
    ∧ beside { ask (.seal rec0.primary) keyed with arrival := 3 } = true
    ∧ beside { idler (.seal (key 0 0 0)) with arrival := 3, slots := [65535] } = false
    ∧ ({ busy x cached with engine.releaseAll := some { ctx := 14, port := none, station := none } } : Part).performable 15
        = false := by decide

theorem test_witness_Walk_full_list_and_forwarded :
    (let p := walking (walkOf .record (some 65535)) (.record 65535) (fullOfFaults { calm with engine.slots := [(65535, .live)] });
      p.quiet = true ∧ p.engine.faults.length = 16 ∧ p.slotAt 65535 = .live ∧ p.slotActive 65535 = false
        ∧ p.mem.value (.record 65535) = .record none false)
    ∧ (let p := forwarded (.walk 7) (.record 65535) (.record (some rec0) true)
          (walking (walkOf .record (some 65535)) (.record 65535) { calm with engine.slots := [(65535, .live)] });
        p.quiet = true ∧ p.returns (.walk 7) (.record 65535) (.record (some rec0) true)) :=
  ⟨by decide, by decide, returns_of (by decide)⟩

theorem test_walk_fault_on_a_full_list_passes_to_read_only :
    ∃ t, exec (.walkReadComplete 7) (on (walking (walkOf .record (some 65535)) (.record 65535)
        (fullOfFaults { calm with engine.slots := [(65535, .live)] }))) = .next t
      ∧ t.part.engine.mode = .readOnly ∧ t.part.engine.unlisted = 1 ∧ t.part.engine.faults.length = 16 :=
  ⟨_, rfl, by decide, by decide, by decide⟩

/-- The directory turn at its last read, whose entry is the last of its leaf block; `root` live entries of the consignor. -/
def lastOfBlock (x : Context) (st : SlotState) (root : Nat) (owner : UpdateOwner) : Part :=
  let p := turning x (.leaf 0 4095) [] (directory { leaf := some 0, live := 1 } [(4095, .primary 65535)])
  { p with engine.roots := [(255, { branch := some 1023, live := root })], engine.slots := [(65535, st)]
           engine.faults := [⟨65535, rec0.primary, none⟩]
           engine.turn := [{ owner := owner, reads := [.leaf 0 4095], begun := true }] }

theorem test_witness_DirectoryTurn_removals :
    (∀ root ∈ [1, 2], let p := lastOfBlock (idler (.forceRetire 0 65535)) .faulted root (.request 15);
      p.quiet = true ∧ (p.branchNow 1023 4095).live = 1 ∧ (p.leafAt rec0.primary).slot? = some 65535 ∧ p.engine.holdRead = none
        ∧ p.engine.range = none ∧ p.roomToWrite 2 = true ∧ p.roomToIssue = true
        ∧ p.engine.faults.find? (fun f => f.slot == 65535) = some ⟨65535, rec0.primary, none⟩)
    ∧ (lastOfBlock (idler (.forceRetire 0 65535)) .faulted 1 (.request 15)).Waits 15 (idler (.forceRetire 0 65535))
    ∧ (lastOfBlock (idler .status) .withdrawn 1 (.withdrawn rec0.primary 65535)).quiet = true :=
  ⟨by decide, waits_of (by decide), by decide⟩

/-- The removal of a consignor's last entry returns its leaf block, and then its branch block, to the tail of the list. -/
theorem test_last_entry_returns_both_blocks :
    ∃ t, exec .updateReadComplete (on (lastOfBlock (idler .status) .withdrawn 1 (.withdrawn rec0.primary 65535))) = .next t
      ∧ t.part.engine.blockFree.numbers = [0, 1023] ∧ (t.part.rootAt 255).branch = none := ⟨_, rfl, by decide, by decide⟩

/-- The step of set 63 removes a set's entry that the flush hits and that is of an older epoch. -/
theorem test_witness_LotHold_last_set :
    let f : Flush := { consignor := 255, lot := none, epoch := 1, nextSet := 63, ctx := 15 };
    let x : Context := { idler (.hold (.consignor 255) 0) with reply := some ⟨.ok, []⟩, stage := .awaitingWrite };
    let p : Part := { cached with path.flush := some f, engine.contexts := [(15, x)] };
    p.quiet = true ∧ p.Waits 15 x ∧ ∃ t, exec .patternFlushStep (on p) = .next t ∧ t.part.path.cache = [] :=
  ⟨by decide, waits_of (by decide), _, rfl, by decide⟩

/-- A RELABEL that held the outcome of a range now gone goes on to its turn when a check ends RANGE_IN_USE, and an ENROLL to its
probe (R108). -/
theorem test_stale_exempt_goes_on :
    let k := key 255 4095 9;
    let e := ask (.enroll k 0 none none) [⟨k, .exempt true 3⟩];
    let r := ask (.relabel rec0.primary k none) [⟨rec0.primary, .fetching⟩, ⟨k, .exempt true 3⟩];
    let p := rangeReading { leaf := some 0 } 4095 anyRange;
    let q : Part := { p with engine.contexts := [(13, e), (14, r)] ++ p.engine.contexts };
    q.quiet = true ∧ (e.resolutionOf k).isExempt = true ∧ exemptOutcome q.engine.exempt k = none
      ∧ ∃ t, exec .rangeCheckReadComplete (on q) = .next t
        ∧ (t.part.ctx? 13).map (fun x => x.resolutionOf k) = some .fetching
        ∧ (t.part.ctx? 14).map (fun x => x.resolutionOf k) = some .byTurn :=
  ⟨by decide, by decide, by decide, _, rfl, by decide, by decide⟩

/-- Each requester in turn, and the record path's reads and writes by turns (R128). -/
theorem test_witness_arbiter :
    let p : Part := { queued [bagWrite] [] with path.waiting := [⟨.update, .record 0, true⟩], tally.writes := [⟨0, .free, none⟩]
                                                zone.writes := [.zone 0 none] };
    (p.arbitrate.path.inFlight = some .tally ↔ p.path.lastGranted = .path)
    ∧ ({ p with path.lastGranted := .path } : Part).arbitrate.path.inFlight = some .tally
    ∧ ({ p with path.lastGranted := .tally } : Part).arbitrate.path.inFlight = some (.zone 0 (p.zoneRecord 0))
    ∧ ({ p with path.lastGranted := .zone, path.lastOffered := .read } : Part).arbitrate.path.inFlight = some .write
    ∧ ({ p with path.lastGranted := .zone, path.lastOffered := .write } : Part).arbitrate.path.inFlight
        = some (.read ⟨.update, .record 0, true⟩) := by decide

theorem test_witness_ReleaseAll_full_list :
    let p := accessing (.read ⟨.releaseAll, .record 65535, true⟩)
      (fullOfFaults (releasing 2046 (some 3) { calm with engine.slots := [(65535, .live)] } true));
    p.quiet = true ∧ p.engine.faults.length = 16 ∧ p.mem.value (.record 65535) = .record none false := by decide

theorem test_witness_Status_rebuilt : ∀ m ∈ [Mode.awaitTime, .running, .readOnly],
    performedOn { calm with engine.mode := m } (ask .status) := by
  intro m h
  simp only [List.mem_cons, List.not_mem_nil, or_false] at h
  rcases h with rfl | rfl | rfl <;> exact performed_of (by decide)

/-! ### Witnesses: holders, refused commands, the record cache, returned blocks, the newest record -/

/-- A part whose port 1 holds the carrier of tally `n`, with the routed notices sent to port 3. -/
def withHolders (n : Nat) (p : Part) : Part :=
  { p with engine.checkouts := [(2047, ⟨n, key 0 0 0, 1, 255, 0⟩)]
           port.routing := List.replicate 8 (some 3) }

/-- A tally whose carrier is checked out comes to a bake walk, to a served mark and to an insertion; the first step of a bake
walk's list finds it too. -/
theorem test_witness_holder_copies :
    (let p := withHolders 65535 (bakedLast 60 0 {} [] [] []);
      p.quiet = true ∧ (p.bakeWalkReady 31).map (fun b => b.visit) = some (some [65535])
        ∧ (p.holders 65535).map (fun h => h.port) = [1])
    ∧ (let p := withHolders 65535 (baked 60 1 none);
        p.quiet = true ∧ p.bakeWalkReady 31 = some { zone := 31, minutes := 60, cls := 7 } ∧ (p.listAt 255).order = [65535])
    ∧ (∀ m ∈ [1440, 1600], (withHolders 65535 (listed m)).quiet = true
        ∧ ((withHolders 65535 (listed m)).holders 65535).length = 1)
    ∧ (∀ m ∈ [1440, 1600], (withHolders 0 (inserting [] 1600 m none)).quiet = true
        ∧ ((withHolders 0 (inserting [] 1600 m none)).holders 0).length = 1) := by decide

/-- A LIST_DUE walk over a list with no tally stands at its end (log 67). -/
theorem test_witness_ListDue_empty :
    let p : Part := { awaited (.listDue 31 7 0 32) (.listDue 31 7 0 32) (listed 0) with
      tally.lists := [(255, { walk := some (.listDue 7 0 32 [] {}) })], tally.marks := []
      tally.queue := [{ cmd (.listDue 31 7 0 32) with taken := true }] };
    p.quiet = true ∧ (p.listAt 255).walk = some (.listDue 7 0 32 [] {}) ∧ p.Awaits 15 (waiter (.listDue 31 7 0 32)) :=
  ⟨by decide, by decide, awaits_of (by decide)⟩

/-- A command of each request that a check refuses, with the context that waits for it. -/
theorem test_witness_refused_commands :
    (∀ e ∈ [((Request.enroll rec0.primary 7 none none), TallyOp.create 65535 rec0.primary 7 0 0),
        (.move rec0.primary 31 none, .move 65535 31), (.move rec0.primary 31 none, .split 69631 65535 (some 31)),
        (.seal rec0.primary, .seal 65535), (.seal rec0.primary, .split 69631 65535 none), (.moveGroup 4095 31, .move 69631 31),
        (.retire rec0.primary 0 none, .leave 65535 69631), (.forceRetire 15 65535, .leave 65535 69631)],
      let p := awaited e.1 e.2 (talliedBy sealed_);
        p.quiet = true ∧ p.nextCommand = some (cmd e.2) ∧ (p.opRefusal e.2).isSome = true ∧ p.ctx? 15 = some (waiter e.1)
          ∧ p.noneWaits = true)
    ∧ (∀ r ∈ [Request.retire rec0.primary 0 none, .forceRetire 15 65535], let p := awaited r (.free 65535) budgeted;
        p.quiet = true ∧ p.opRefusal (.free 65535) = some .wrongState ∧ p.noneWaits = true)
    ∧ (awaited (.moveGroup 4095 31) (.move 69631 31) (talliedBy sealed_)).Awaits 15 (waiter (.moveGroup 4095 31)) :=
  ⟨by decide, by decide, awaits_of (by decide)⟩

/-- A MOVE_GROUP waits while a RETIRE is active on a member's slot, also where the member's key was not found (R70). -/
theorem test_witness_performable_member :
    let x := ask (.moveGroup 4095 31) (resolved .notFound);
    let y : Context := { idler (.retire rec0.primary 0 none) with arrival := 3, slots := [65535] };
    let p := fun (e : Context) => ({ calm with
      engine.bags := [(4095, .live oneMember none 0)], engine.contexts := [(14, e), (15, x)] } : Part);
    (p y).performable 15 = false ∧ (p { y with stage := .answered }).performable 15 = true := by decide

/-- The record a walk has read is superseded in the write stream, in the memory, or by nothing (R116). -/
theorem test_witness_Walk_newest :
    let r : CarrierRecord := { rec0 with checkout := some 2047 };
    let p : Part := { calm with engine.slots := [(65535, .live)] };
    let w := fun (p : Part) => walking (walkOf .record (some 65535)) (.record 65535) p;
    let made := fun (p : Part) => streamValue p.stream (.record 65535);
    let q := w (queued [⟨none, .record 65535 ⟨r, 0⟩⟩] [] p);
    q.quiet = true ∧ made q = some (.record (some r) true) ∧ (w p).quiet = true ∧ made (w p) = none
      ∧ (w p).mem.value (.record 65535) = .record none false
      ∧ ({ w p with mem.records := [(65535, ⟨r, checkWordOf 65535 r⟩)] } : Part).mem.value (.record 65535)
        = .record (some r) true := by
  refine ⟨by decide, by decide, by decide, by decide, by decide, ?_⟩
  simp [RecordMemory.value, StoredRecord.sound, tfind]

/-- A carrier with an alias in its own leaf block, checked out as entry 77 by station 255 of port 3 and watched by port 1. -/
def aliased : CarrierRecord := { rec0 with aliases := [key 255 4095 0], checkout := some 77, watch := [1] }

/-- The RETIRE of a carrier with an alias and a checkout at its act; one whose entries have gone already is removed too. -/
theorem test_witness_Retire_of_alias_and_checkout :
    (∀ leaf ∈ [([(0, .aliasOf 65535), (4095, .primary 65535)] : Table LeafEntry), [(4095, .primary 65535)], []],
      let x := holding (.retire rec0.primary 0 none) aliased;
      let p : Part := { turning x (.leaf 0 0) [] (directory { leaf := some 0, live := 2 } leaf) with
        engine.checkouts := [(77, ⟨65535, rec0.primary, 3, 255, 0⟩)], path.cache := (cached aliased).path.cache };
      p.quiet = true ∧ x.working.head? = some (65535, aliased) ∧ p.slotAt 65535 = .live ∧ p.roomToIssue = true
        ∧ p.checkoutOf 65535 = some (77, ⟨65535, rec0.primary, 3, 255, 0⟩) ∧ p.roomToWrite 5 = true
        ∧ p.engine.holdRead = none ∧ p.engine.range = none ∧ (p.cacheOfSlot 65535).isSome = true)
    ∧ (turning (holding (.retire rec0.primary 0 none) aliased) (.leaf 0 0) [] (directory {})).Waits 15
        (holding (.retire rec0.primary 0 none) aliased) := ⟨by decide, waits_of (by decide)⟩

/-- The answer of a RETIRE counts the entries removed: here the primary's alone. -/
theorem test_retire_counts_the_entries_removed :
    let x := holding (.retire rec0.primary 0 none) aliased;
    ∃ t y, exec .updateReadComplete (on (turning x (.leaf 0 0) [] (directory { leaf := some 0, live := 2 } [(4095, .primary 65535)])))
        = .next t ∧ t.part.ctx? 15 = some y ∧ y.head[1]? = some ⟨2, 1⟩ := ⟨_, _, rfl, rfl, by decide⟩

/-- An ENROLL and a RELABEL whose branch entry has no leaf block, with a block free and with none. -/
theorem test_witness_insertion_with_a_new_leaf_block :
    (∀ x ∈ [idler (.enroll rec0.primary 7 none none), holding (.relabel (key 1 1 1) rec0.primary none)],
      ∀ free ∈ [([(5, 1)] : FreeList), []],
      let p : Part := { turning x (.branch 1023 4095) [] (directory {}) with engine.blockFree := free };
      p.quiet = true ∧ p.flushes 15 = false ∧ (p.branchNow 1023 4095).leaf = none ∧ p.leafAt rec0.primary = .empty
        ∧ p.engine.slotFree.pop = some (0, [(1, 65534)]) ∧ p.roomToWrite 3 = true ∧ p.roomToIssue = true)
    ∧ FreeList.pop [(5, 1)] = some (5, []) ∧ FreeList.size [(5, 1)] ≠ 0 ∧ FreeList.size [] = 0
    ∧ (busy (holding (.relabel (key 1 1 1) rec0.primary none)) cached).unfaulted
        (holding (.relabel (key 1 1 1) rec0.primary none)) = true := by decide

/-- The last entry of the leaf block a walk reads, waits to read, or has been sent to by an answered branch entry. -/
theorem test_witness_abandoned_walk :
    let k := key 255 4095 3;
    let w : Walk := { key := k, stage := .leaf, slot := none, epoch := 7, parked := [9] };
    let v : ReadValue := .branch { leaf := some 0 };
    let p := fun (root : Nat) => lastOfBlock (idler .status) .withdrawn root (.withdrawn rec0.primary 65535);
    let q := fun (root : Nat) (w : Walk) (waits : List Read) (returned : List Returned) => ({ p root with
      path.missFile := [(2, w)], path.waiting := waits, path.returned := returned
      engine.contexts := (9, ask (.lookup k) [⟨k, .fetching⟩]) :: (p root).engine.contexts } : Part);
    (∀ root ∈ [1, 2], (q root w [⟨.walk 2, .leaf 0 3, true⟩] []).quiet = true
      ∧ (q root { w with stage := .branch } [] [⟨⟨.walk 2, .branch 1023 4095, true⟩, v⟩]).quiet = true
      ∧ ((q root w [] []).branchNow 1023 4095).live ≤ 1 ∧ ((q root w [] []).leafAt rec0.primary).slot? = some 65535)
    ∧ (ReadTarget.leaf 0 3).block? = some 0 ∧ (ReadTarget.branch 1023 4095).block? = some 1023
    ∧ (((q 1 w [] []).entryRemoved none 65535 rec0.primary).rootAt 255).branch = none
    ∧ (((q 2 w [] []).entryRemoved none 65535 rec0.primary).rootAt 255).branch = some 1023 := by decide

/-- A hold read and a range check of a branch block that the removal of its last entry returns. -/
theorem test_witness_abandoned_hold_and_range :
    let p := lastOfBlock (idler .status) .withdrawn 1 (.withdrawn rec0.primary 65535);
    let c := { p with engine.contexts := (9, idler (.hold (.lot 255 4095) 0)) :: p.engine.contexts };
    let h : Part := { c with engine.holdRead := some 9, path.waiting := [⟨.hold, .branch 1023 4095, true⟩] };
    let g := fun (roots : Table RootEntry) => ({ c with
      engine.range := some { ctx := 9, range := 3, proposed := anyRange, begun := true, consignor := 255, lot := 4095 }
      engine.roots := roots ++ p.engine.roots, path.waiting := [⟨.range, .branch 1023 4095, true⟩] } : Part);
    h.quiet = true ∧ h.engine.range = none ∧ h.flushes 9 = false ∧ h.hasHeld 9 = false
      ∧ (g []).quiet = true ∧ (g [(0, { branch := some 4 })]).quiet = true
      ∧ ((g []).entryRemoved none 65535 rec0.primary).nextRange anyRange 0 0 = none
      ∧ ((g [(0, { branch := some 4 })]).entryRemoved none 65535 rec0.primary).nextRange anyRange 0 0 = some (0, 0, 4)
      ∧ (g []).roomToWrite 3 = true := by decide

/-- A context READY on an entry that a flush is to remove, and on one it has removed at its last set, still seeks another key. -/
theorem test_witness_reprobes :
    let x := ask (.openKeys 31 [rec0.primary, key 0 0 0]) (keyed ++ resolved .fetching (key 0 0 0));
    let f : Flush := { consignor := 255, lot := some 4095, epoch := 1, nextSet := 63, ctx := 15 };
    let p := lotHolding (.hold (.lot 255 4095) 255) none;
    let q : Part := { p with path.cache := cached.path.cache, engine.contexts := (9, x) :: p.engine.contexts };
    let y : Context := { idler (.hold (.lot 255 4095) 255) with reply := some ⟨.ok, []⟩, stage := .awaitingWrite };
    q.quiet = true ∧ x.stage = .resolving ∧ f.hits rec0.primary = true ∧ (tfind q.path.cache 255).isSome = true
      ∧ ({ cached with path.flush := some f, engine.contexts := [(9, x), (15, y)] } : Part).quiet = true
      ∧ performsNow { cached with
          engine.contexts := [(9, x), (15, ask (.hold (.consignor 255) 0))], engine.roots := [(255, { branch := some 1023 })] } 15
          (ask (.hold (.consignor 255) 0)) = true := by decide

/-- The read of a RELEASE_ALL returns a record of a slot that has become FAULTED meanwhile, and the entry is skipped. -/
theorem test_witness_ReleaseAll_slot_faulted_meanwhile :
    let p := accessing (.read ⟨.releaseAll, .record 65535, true⟩)
      (releasing 2046 (some 3) { calm with engine.slots := [(65535, .faulted)] } true);
    p.quiet = true ∧ p.mem.value (.record 65535) = .record none false ∧ p.slotAt 65535 ≠ .live
      ∧ ∃ t, exec .releaseAllRecordRead (on p) = .next t ∧ t.part.engine.faults = [] ∧ t.part.engine.checkouts.length = 1
        ∧ (t.part.engine.releaseAll.map fun ra => (ra.nextEntry, ra.released, ra.skipped)) = some (2047, 0, 1) :=
  ⟨by decide, by decide, by decide, _, rfl, by decide, by decide, by decide⟩

/-- RELEASE_ALL at its last entry: a release whose write is queued, one whose write is held, a fault, a wait for a slot. -/
theorem test_witness_ReleaseAll_last_entry :
    let r : CarrierRecord := { rec0 with checkout := some 2047 };
    let at2047 := fun (p : Part) (reading : Bool) => ({ releasing 2047 (some 3) p reading with
      engine.checkouts := [(2047, ⟨65535, rec0.primary, 3, 255, 0⟩)] } : Part);
    let full := queued (List.replicate 8 bagWrite) [] (cached r);
    let waits := fun (x : Context) (p : Part) => ({ p with engine.contexts := (9, x) :: p.engine.contexts } : Part);
    let ready := fun (p : Part) => p.engine.releaseAll.map fun ra => p.releaseAllReady ra;
    (∀ p ∈ [at2047 (cached r) false, at2047 full false], p.quiet = true ∧ ready p = some true
      ∧ p.checkoutOf 65535 = some (2047, ⟨65535, rec0.primary, 3, 255, 0⟩))
    ∧ (at2047 full false).roomToWrite 1 = false ∧ (at2047 (cached r) false).hasHeld 15 = false
    ∧ (accessing (.read ⟨.releaseAll, .record 65535, true⟩)
        (at2047 { calm with engine.slots := [(65535, .live)] } true)).quiet = true
    ∧ ready (waits { idler (.seal rec0.primary) with slots := [65535], performSeq := 4 } (at2047 (cached r) false)) = some false
    ∧ ready (waits { idler (.seal rec0.primary) with slots := [0], performSeq := 4 } (at2047 (cached r) false)) = some true := by
  decide

/-- The answer of a RELEASE_ALL whose last write was held releases the table (R168). -/
theorem test_held_write_ends_release_all :
    let p := queued (List.replicate 7 bagWrite) [⟨some 15, (recordWrite 65535).body⟩] (releasing 2047 (some 3) calm);
    let q : Part := { p with
      engine.releaseAll := some { ctx := 15, port := some 3, station := none, nextEntry := 2048 }
      engine.contexts := [(15, { idler (.releaseAll (some 3) none) with reply := some ⟨.ok, []⟩, stage := .awaitingWrite })] };
    q.alive = true ∧ ∃ t, exec .heldWriteQueued (on q) = .next t ∧ t.part.engine.releaseAll = none :=
  ⟨by decide, _, rfl, by decide⟩

/-- A RELABEL that opens a consignor's branch and leaf block (R97, R156). -/
theorem test_witness_Relabel_of_a_new_consignor :
    let p : Part := { cached with engine.blockFree := [(1022, 2)] };
    performedOn p relabelling ∧ (p.rootAt 0).branch = none ∧ 2 ≤ p.engine.blockFree.size ∧ p.roomToWrite 4 = true
      ∧ relabelling.keys.head? = some ⟨rec0.primary, .entry 255 65535 0 .primary⟩
      ∧ (∀ k ∈ relabelling.keys.drop 1, k.res = .byTurn) ∧ cached.engine.blockFree.size < 2 :=
  ⟨performed_of (by decide), by decide, by decide, by decide, by decide, by decide, by decide⟩

/-- Entries whose hold is the consignor's, the lot's, the bag's and the carrier's own, with the bag LIVE, CLOSING and gone. -/
theorem test_witness_effective_hold :
    let e : CacheEntry := { slot := 65535, record := { rec0 with link := some 4095, hold := some 3 }, conHold := some 0
                            lotHold := some 255, pinned := false, fillEpoch := 0 };
    let bag := fun (b : BagRecord) => ({ calm with engine.bags := [(4095, b)] } : Part);
    calm.holdOf e = some (.consignor, 0) ∧ calm.holdOf { e with conHold := none } = some (.lot, 255)
      ∧ (bag (.live [] (some 8) 0)).holdOf { e with conHold := none, lotHold := none } = some (.bag, 8)
      ∧ (bag (.closing (some 8) 0)).holdOf { e with conHold := none, lotHold := none } = some (.bag, 8)
      ∧ calm.holdOf { e with conHold := none, lotHold := none } = some (.carrier, 3)
      ∧ calm.bagAt 4095 = .free ∧ (bag (.live [] none 0)).bagAt 4095 = .live [] none 0 := by decide

/-- The holder's request has its port and its station tag; a request without a tag is not the holder's (R149). -/
theorem test_witness_holder :
    heldOut.heldByOther 3 (some 255) 65535 = false ∧ heldOut.heldByOther 3 none 65535 = true
      ∧ heldOut.heldByOther 3 (some 0) 65535 = true ∧ heldOut.heldByOther 2 (some 255) 65535 = true
      ∧ heldOut.heldByOther 0 none 0 = false ∧ heldOut.checkoutOf 0 = none
      ∧ calm.permits 0 255 = true ∧ calm.permits 3 255 = decide (3 ∈ (calm.rootAt 255).ports) := by decide

/-! ### Steps -/

theorem test_reset_idles : step State.reset = .next State.reset := rfl

theorem test_front_command_first : step ⟨[.minuteTick, .powerLoss], calm⟩ = exec .minuteTick ⟨[.powerLoss], calm⟩ := rfl

theorem test_first_power_on_is_unformatted : ∃ t, exec .loadConfig State.reset = .next t ∧ t.part.engine.mode = .unformatted :=
  ⟨_, rfl, by decide⟩

theorem test_tick_moves_the_clock : ∃ t, exec .minuteTick (on calm) = .next t ∧ t.part.zone.wallMinute = some 101 :=
  ⟨_, rfl, by decide⟩

theorem test_status_request_arrives : ∃ t, exec (.requestArrival 3 (frameOf 22 [])) (on calm) = .next t
    ∧ (t.part.portAt 3).requests = [⟨9, 0, .status⟩] ∧ (t.part.portAt 3).outstanding = 1 := ⟨_, rfl, by decide, by decide⟩

end Sys2Proof.Tests
end

section
/-! PROOF. The minute's zone work for one zone (R20): what its steps read and change, and the advance by kind and condition. -/

namespace Sys2Proof.Machine

/-! ### Reading a zone after a change -/

theorem Part.zoneAt_setZone_self (p : Part) {z : Nat} (f : Zone → Zone) (h : z < p.zone.zones.length) :
    (p.setZone z f).zoneAt z = f (p.zoneAt z) :=
  getD_modifyAt_self p.zone.zones z f {} h

theorem Part.zoneAt_setZone_of_ne (p : Part) {z z' : Nat} (f : Zone → Zone) (h : z' ≠ z) :
    (p.setZone z f).zoneAt z' = p.zoneAt z' :=
  getD_modifyAt_of_ne p.zone.zones z z' f {} h

/-! ### Step 1 and step 3 -/

/-- To the zone unit a refresh of the stale flag is that flag alone: its notice changes the ports (R11, R12). -/
theorem Part.staleRefresh_zone (p : Part) (minute z : Nat) :
    (p.staleRefresh minute z).zone
      = (p.setZone z fun zn => { zn with stale := (p.zoneAt z).staleAt minute }).zone := by
  simp only [Part.staleRefresh]
  split
  · rw [Part.giveRouted_eq]
  · rfl

@[simp] theorem Part.staleRefresh_zone_weights (p : Part) (minute z : Nat) :
    (p.staleRefresh minute z).zone.weights = p.zone.weights := by
  rw [staleRefresh_zone, setZone_zone_weights]

@[simp] theorem Part.staleRefresh_zone_timers (p : Part) (minute z : Nat) :
    (p.staleRefresh minute z).zone.timers = p.zone.timers := by
  rw [staleRefresh_zone, setZone_zone_timers]

@[simp] theorem Part.length_staleRefresh_zones (p : Part) (minute z : Nat) :
    (p.staleRefresh minute z).zone.zones.length = p.zone.zones.length := by
  rw [staleRefresh_zone, Part.setZone, length_modifyAt]

theorem Part.zoneAt_staleRefresh_of_ne (p : Part) (minute : Nat) {z z' : Nat} (h : z' ≠ z) :
    (p.staleRefresh minute z).zoneAt z' = p.zoneAt z' := by
  rw [Part.zoneAt, staleRefresh_zone]
  exact p.zoneAt_setZone_of_ne _ h

@[simp] theorem Part.zoneAt_countDown (p : Part) (b : Bake) (z : Nat) : (p.countDown b).zoneAt z = p.zoneAt z := by
  cases b <;> rfl

theorem Part.countDown_of_not_running (p : Part) {b : Bake} (h : ∀ n m, b ≠ .running n m) : p.countDown b = p := by
  cases b with
  | running n m => exact absurd rfl (h n m)
  | idle => rfl
  | completing n m => rfl

/-! ### Step 2: the advance of one zone -/

/-- A zone with one minute's weights of a band added to its computed meters (R3, R7, R20). -/
def Zone.charged (weights : List (List Nat)) (band : Nat) (z : Zone) : Zone :=
  { z with
    metersComputed := z.metersComputed.mapIdx (fun cls m => min (m + (weights.getD band []).getD cls 0) (2 ^ 40 - 1)) }

theorem addWeights_one (weights : List (List Nat)) (band : Nat) (meters : List Nat) :
    addWeights weights band 1 meters
      = meters.mapIdx fun cls m => min (m + (weights.getD band []).getD cls 0) (2 ^ 40 - 1) := by
  simp only [addWeights, addGrains, weightAt, Nat.one_mul]
  rfl

section
variable {weights : List (List Nat)} {z : Zone}

theorem Zone.advanced_floor (hk : z.kind = .floor) : z.advanced weights = z.charged weights z.effectiveBand := by
  simp only [Zone.advanced, hk, addWeights_one, Zone.charged]

theorem Zone.advanced_dry_clear (hk : z.kind = .dry) (ht : z.tripped = false) (hs : z.stale = false) :
    z.advanced weights = { z with dryComputed := min (z.dryComputed + 1) 4294967295 } := by
  simp only [Zone.advanced, hk, ht, hs, Bool.or_self, Bool.false_eq_true, if_false, Config.maxMinute]

theorem Zone.advanced_dry_fallback (hk : z.kind = .dry) (h : z.tripped = true ∨ z.stale = true) :
    z.advanced weights = z.charged weights z.fallback := by
  have hb : (z.tripped || z.stale) = true := by simpa using h
  simp only [Zone.advanced, hk, hb, if_true, addWeights_one, Zone.charged]

theorem Zone.advanced_oven_idle (hk : z.kind = .oven) (hb : z.bake = .idle) :
    z.advanced weights = z.charged weights z.effectiveBand := by
  simp only [Zone.advanced, hk, hb, addWeights_one, Zone.charged]

/-- A bake freezes the zone's meters. -/
theorem Zone.advanced_oven_baking (hk : z.kind = .oven) (hb : z.bake ≠ .idle) : z.advanced weights = z := by
  cases h : z.bake with
  | idle => exact absurd h hb
  | running n m => simp only [Zone.advanced, hk, h]
  | completing n m => simp only [Zone.advanced, hk, h]

end

/-! ### The three steps together -/

theorem Part.zoneAt_workZone_self (p : Part) (minute : Nat) {z : Nat} (h : z < p.zone.zones.length) :
    (p.workZone minute z).zoneAt z = ((p.staleRefresh minute z).zoneAt z).advanced p.zone.weights := by
  simp only [Part.workZone, zoneAt_countDown, staleRefresh_zone_weights]
  exact zoneAt_setZone_self _ _ (by simpa using h)

theorem Part.zoneAt_workZone_of_ne (p : Part) (minute : Nat) {z z' : Nat} (h : z' ≠ z) :
    (p.workZone minute z).zoneAt z' = p.zoneAt z' := by
  simp only [Part.workZone, zoneAt_countDown]
  rw [zoneAt_setZone_of_ne _ _ h, zoneAt_staleRefresh_of_ne _ _ h]

theorem Part.workZone_timers_of_running (p : Part) (minute : Nat) {z n m : Nat}
    (h : ((p.staleRefresh minute z).zoneAt z).bake = .running n m) :
    (p.workZone minute z).zone.timers = modifyAt p.zone.timers n fun tm =>
      tm.map fun tm => { tm with remaining := tm.remaining - 1 } := by
  simp only [Part.workZone, h, Part.countDown, setZone_zone_timers, staleRefresh_zone_timers]

theorem Part.workZone_timers_of_not_running (p : Part) (minute : Nat) {z : Nat}
    (h : ∀ n m, ((p.staleRefresh minute z).zoneAt z).bake ≠ .running n m) :
    (p.workZone minute z).zone.timers = p.zone.timers := by
  simp only [Part.workZone, countDown_of_not_running _ h, setZone_zone_timers, staleRefresh_zone_timers]

/-- Settles O19: the zone reads as its advance by kind and condition, the bake read once moves its timer, and no other zone
changes. -/
theorem zoneWorkAdvancesByKindAndCondition : Obligations.ZoneWorkAdvancesByKindAndCondition := by
  intro p minute z hz zn charged q
  have hself : q.zoneAt z = zn.advanced p.zone.weights := p.zoneAt_workZone_self minute hz
  rw [hself]
  refine ⟨?floor, ?dryClear, ?dryFallback, ?ovenIdle, ?ovenBaking, ?counted, ?uncounted, ?others⟩
  case floor => exact Zone.advanced_floor
  case dryClear => exact Zone.advanced_dry_clear
  case dryFallback => exact Zone.advanced_dry_fallback
  case ovenIdle => exact Zone.advanced_oven_idle
  case ovenBaking => exact Zone.advanced_oven_baking
  case counted => exact fun n m => p.workZone_timers_of_running minute
  case uncounted => exact p.workZone_timers_of_not_running minute
  case others => exact fun z' => p.zoneAt_workZone_of_ne minute

end Sys2Proof.Machine
end

section
/-! PROOF. What an answer says of a tally: the reported state line by line (R27), the remaining minutes (R29), and the last
reason of a VERIFY (R148). -/

namespace Sys2Proof.Machine

/-! ### Reading a tally -/

theorem Account.expired_eq_true_iff (a : Account) : a.expired = true ↔ a.expiredAt ≠ none := by
  rw [Account.expired, Option.isSome_iff_ne_none]

theorem Account.expired_eq_false_iff (a : Account) : a.expired = false ↔ a.expiredAt = none := by
  rw [Account.expired, Option.isSome_eq_false_iff, Option.isNone_iff_eq_none]

@[simp] theorem Tally.account_resident (r : Resident) : (Tally.resident r).account = r.acct := rfl

@[simp] theorem Tally.zone?_resident (r : Resident) : (Tally.resident r).zone? = some r.zone := rfl

theorem Zone.baking_eq_true_iff (z : Zone) : z.baking = true ↔ z.bake ≠ .idle := by
  rw [Zone.baking, bne_iff_ne]

/-! ### The reported state of a RESIDENT tally (R27) -/

section
variable {r : Resident} {zones : List Zone}

theorem reportedState_exhausted (hx : r.acct.exhausted = true) :
    reportedState (.resident r) zones = some .exhausted := by
  simp only [reportedState, hx, if_true]

theorem reportedState_expired (hx : r.acct.exhausted = false) (he : r.acct.expiredAt ≠ none) :
    reportedState (.resident r) zones = some .expired := by
  have he := r.acct.expired_eq_true_iff.2 he
  simp only [reportedState, hx, he, Bool.false_eq_true, if_false, if_true]

/-- Behind the flags the zone decides. -/
theorem reportedState_of_unflagged (hx : r.acct.exhausted = false) (he : r.acct.expiredAt = none) :
    reportedState (.resident r) zones
      = if (zones.getD r.zone {}).kind = .oven ∧ (zones.getD r.zone {}).bake ≠ .idle then some .baking
        else if (zones.getD r.zone {}).kind = .dry then some .dry else some .open_ := by
  have he := r.acct.expired_eq_false_iff.2 he
  simp only [reportedState, hx, he, Bool.false_eq_true, if_false, Bool.and_eq_true, beq_iff_eq, Zone.baking_eq_true_iff]

theorem reportedState_baking (hx : r.acct.exhausted = false) (he : r.acct.expiredAt = none)
    (hk : (zones.getD r.zone {}).kind = .oven) (hb : (zones.getD r.zone {}).bake ≠ .idle) :
    reportedState (.resident r) zones = some .baking := by
  rw [reportedState_of_unflagged hx he, if_pos ⟨hk, hb⟩]

theorem reportedState_dry (hx : r.acct.exhausted = false) (he : r.acct.expiredAt = none)
    (hk : (zones.getD r.zone {}).kind = .dry) : reportedState (.resident r) zones = some .dry := by
  simp only [reportedState_of_unflagged hx he, hk, reduceCtorEq, false_and, if_false, if_true]

theorem reportedState_floor (hx : r.acct.exhausted = false) (he : r.acct.expiredAt = none)
    (hk : (zones.getD r.zone {}).kind = .floor) : reportedState (.resident r) zones = some .open_ := by
  simp only [reportedState_of_unflagged hx he, hk, reduceCtorEq, false_and, if_false]

theorem reportedState_oven_idle (hx : r.acct.exhausted = false) (he : r.acct.expiredAt = none)
    (hk : (zones.getD r.zone {}).kind = .oven) (hb : (zones.getD r.zone {}).bake = .idle) :
    reportedState (.resident r) zones = some .open_ := by
  simp only [reportedState_of_unflagged hx he, hk, hb, reduceCtorEq, ne_eq, not_true, and_false, if_false]

end

/-! ### The tally that reports for a carrier (R64) -/

theorem accountTally_of_linked (slot : Nat) {r : CarrierRecord} {b : Nat} (h : r.link = some b) :
    accountTally slot r = 65536 + b := by
  simp only [accountTally, h, Config.bagTallyBase]

theorem accountTally_of_unlinked (slot : Nat) {r : CarrierRecord} (h : r.link = none) : accountTally slot r = slot := by
  simp only [accountTally, h]

/-- Settles O30, line by line of the table of R27. -/
theorem reportedStateIsTheFirstThatApplies : Obligations.ReportedStateIsTheFirstThatApplies := by
  intro zones
  refine ⟨?sealed, fun r => ⟨?exhausted, ?expired, fun hx he => ⟨?baking, ?dry, ?floor, ?ovenIdle⟩⟩, ?linked, ?unlinked⟩
  case sealed => exact fun _ _ _ => rfl
  case exhausted => exact reportedState_exhausted
  case expired => exact reportedState_expired
  case baking => exact reportedState_baking hx he
  case dry => exact reportedState_dry hx he
  case floor => exact reportedState_floor hx he
  case ovenIdle => exact reportedState_oven_idle hx he
  case linked => exact fun slot _ _ => accountTally_of_linked slot
  case unlinked => exact fun slot _ => accountTally_of_unlinked slot

/-! ### Remaining minutes (R29) -/

section
variable {c : ClassEntry} {expired : Bool} {exposure : Nat}

theorem remainingOf_unlimited (hb : c.budget = 0) : remainingOf c expired exposure = none :=
  if_pos hb

theorem remainingOf_used_up (hb : c.budget ≠ 0) (h : expired = true ∨ c.budget * 16 ≤ exposure) :
    remainingOf c expired exposure = some 0 := by
  rw [remainingOf, if_neg hb, if_pos (by simpa using h)]

theorem remainingOf_left (hb : c.budget ≠ 0) (he : expired = false) (h : exposure < c.budget * 16) :
    remainingOf c expired exposure = some ((c.budget * 16 - exposure) / 16) := by
  have hleft : ¬ (expired || decide (c.budget * 16 ≤ exposure)) = true := by simpa [he] using h
  rw [remainingOf, if_neg hb, if_neg hleft]

end

/-- A tally with an account of its own has the remaining minutes of its class, expired flag and exposure. -/
theorem Part.remaining_eq_remainingOf (p : Part) {t : Tally} {cls : Nat} {a : Account}
    (h : (∃ o, t = .sealed o cls a) ∨ ∃ r, t = .resident r ∧ r.cls = cls ∧ r.acct = a) :
    p.remaining t = remainingOf (p.classAt cls) a.expired (p.exposure t) := by
  obtain ⟨o, rfl⟩ | ⟨r, rfl, rfl, rfl⟩ := h
  · rfl
  · rfl

/-! ### The last reason of a VERIFY (R148) -/

/-- An OPEN carrier of a FLOOR zone, with no hold and no holder, is SHORT when fewer minutes remain than it needs. -/
theorem Part.verifyReason_short (p : Part) {x : Context} (port station : Nat) {need m : Nat} {r : Resident}
    (hx : r.acct.exhausted = false) (he : r.acct.expiredAt = none) (hk : (p.zoneAt r.zone).kind = .floor)
    (hhold : x.holdRead = none) (hholder : x.holderRead = none) (hm : p.remaining (.resident r) = some m) (hlt : m < need) :
    p.verifyReason x port station need (.resident r) = some 10 := by
  have hopen : reportedState (.resident r) p.zone.zones = some .open_ := reportedState_floor hx he hk
  have he := r.acct.expired_eq_false_iff.2 he
  simp [Part.verifyReason, hx, he, hk, hhold, hholder, hopen, hm, hlt]

/-- Settles O29: the three cases of R29, and with less than 16 grains left the quotient is 0 and a need of 1 minute is SHORT. -/
theorem remainingIsWholeMinutesLeft : Obligations.RemainingIsWholeMinutesLeft := by
  intro p t cls a ht budget grains
  have hrem := p.remaining_eq_remainingOf ht
  have left : budget ≠ 0 → a.expiredAt = none → p.exposure t < grains →
      p.remaining t = some ((grains - p.exposure t) / 16) := fun hb he hlt =>
    hrem.trans (remainingOf_left hb (a.expired_eq_false_iff.2 he) hlt)
  refine ⟨?unlimited, ?usedUp, left, ?short⟩
  case unlimited =>
    intro hb
    have hnone := hrem.trans (remainingOf_unlimited hb)
    exact ⟨hnone, congrArg fRemaining hnone⟩
  case usedUp =>
    exact fun hb h => hrem.trans (remainingOf_used_up hb (h.imp_left a.expired_eq_true_iff.2))
  case short =>
    intro x r port station htr hb hx he hk hhold hholder hlt hnear
    have hzero : p.remaining t = some 0 := by
      rw [left hb he hlt, Nat.div_eq_of_lt (by omega)]
    obtain rfl : r.acct = a := by
      obtain ⟨o, hs⟩ | ⟨r', hr', -, ha⟩ := ht
      · cases htr.symm.trans hs
      · cases htr.symm.trans hr'
        exact ha
    subst htr
    exact ⟨hzero, p.verifyReason_short port station hx he hk hhold hholder hzero Nat.one_pos⟩

end Sys2Proof.Machine
end
